-- ==== Sys2Proof/Word.lean ====
section
/-! DEFINITION. The value types of the core: every value is an unsigned integer of a stated width (R10). -/

namespace Sys2Proof

/-- `Byte`: 0 to 255 (R10). -/
abbrev Byte := BitVec 8

/-- `Word32`: 0 to 2^32 - 1; `+` wraps (R10, R11). -/
abbrev Word32 := BitVec 32

/-- A command word, CMD64 (R70). -/
abbrev Cmd64 := BitVec 64

end Sys2Proof
end

