-- ==== Sys2Proof/Syntax.lean ====
section
/-! DEFINITION. The commands, one constructor for each row of the opcode table (R72). -/

namespace Sys2Proof

/-- A command of the core, with the operands its encoding carries (R72 to R74). DATA of NOP, INIT, FINALIZE and READ_H is
ignored (R74), so it is no operand. -/
inductive Instr where
  /-- `NOP` (R182). -/
  | nop
  /-- `INIT` (R183). -/
  | init
  /-- `ABSORB nb, data` (R184): NB is the 3-bit ARG field; `data` keeps all 32 bits of DATA, the ignored low bytes included
  (R79). -/
  | absorb (nb : BitVec 3) (data : Word32)
  /-- `FINALIZE` (R185). -/
  | finalize
  /-- `READ_H idx` (R192): all eight values 0..7 are legal (R73). -/
  | readH (idx : Fin 8)
  deriving DecidableEq, Repr

end Sys2Proof
end

