-- ==== Sys2Proof/WellFormed.lean ====
section
/-! DEFINITION. The checks on a command's operands. -/

namespace Sys2Proof

/-- "For ABSORB it is NB, the number of message bytes, and only 1, 2, 3 and 4 are legal" (R73). -/
abbrev NbLegal (nb : BitVec 3) : Prop := 1 ≤ nb.toNat ∧ nb.toNat ≤ 4

/-- A command that some legal word encodes (R73, R77): the only operand that can be wrong is ABSORB's NB. -/
def Instr.wellFormed : Instr → Bool
  | .nop => true
  | .init => true
  | .absorb nb _ => decide (NbLegal nb)
  | .finalize => true
  | .readH _ => true

/-- `Instr.wellFormed`, as a proposition. -/
abbrev Instr.WellFormed (i : Instr) : Prop := i.wellFormed = true

end Sys2Proof
end

