-- ==== Sys2Proof/Decode.lean ====
section
/-! DEFINITION. From a 64-bit command word to a command or an error code (R70 to R77), and the encoder (R79) after it. -/

namespace Sys2Proof

/-- The values ERRCODE can hold (R210). Codes 5, 6 and 7 are never produced, so they have no constructor (U13). -/
inductive ErrCode where
  /-- 0: no error since the last INIT or reset. -/
  | none
  /-- 1, ILLEGAL_OP: OP in 5..15. -/
  | illegalOp
  /-- 2, RESERVED: RSV ≠ 0, or ARG ≠ 0 on NOP, INIT or FINALIZE. -/
  | reserved
  /-- 3, BAD_NB: ABSORB with NB in 0, 5, 6, 7. -/
  | badNb
  /-- 4, SEQUENCE: ABSORB or FINALIZE while DONE = 1. -/
  | sequence
  deriving DecidableEq, Repr

/-- The 3-bit code in status bits 6:4 (R210). -/
def ErrCode.bits : ErrCode → BitVec 3
  | .none => 0
  | .illegalOp => 1
  | .reserved => 2
  | .badNb => 3
  | .sequence => 4

/-- What decoding a word gives: a command, or `Illegal(c)` (R76). -/
inductive Verdict where
  | command (i : Instr)
  | illegal (c : ErrCode)
  deriving DecidableEq, Repr

/-- OP, bits 3:0 (R70). -/
def opField (w : Cmd64) : BitVec 4 := w.extractLsb' 0 4

/-- ARG, bits 6:4 (R70). -/
def argField (w : Cmd64) : BitVec 3 := w.extractLsb' 4 3

/-- RSV, bits 31:7 (R70). -/
def rsvField (w : Cmd64) : BitVec 25 := w.extractLsb' 7 25

/-- DATA, bits 63:32 (R70). -/
def dataField (w : Cmd64) : Word32 := w.extractLsb' 32 32

/-- `decode` (R76): the first test that fails gives the code. -/
def decode (w : Cmd64) : Verdict :=
  let op := opField w
  let arg := argField w
  if 5 ≤ op.toNat then .illegal .illegalOp
  else if rsvField w ≠ 0 then .illegal .reserved
  else if (op = 0 ∨ op = 1 ∨ op = 3) ∧ arg ≠ 0 then .illegal .reserved
  else if op = 2 ∧ (arg = 0 ∨ 4 < arg.toNat) then .illegal .badNb
  else if op = 0 then .command .nop
  else if op = 1 then .command .init
  else if op = 2 then .command (.absorb arg (dataField w))
  else if op = 3 then .command .finalize
  else .command (.readH arg.toFin)

/-- The opcode of each command (R72). -/
def Instr.op : Instr → BitVec 4
  | .nop => 0
  | .init => 1
  | .absorb _ _ => 2
  | .finalize => 3
  | .readH _ => 4

/-- The ARG field of each command (R73). -/
def Instr.arg : Instr → BitVec 3
  | .nop => 0
  | .init => 0
  | .absorb nb _ => nb
  | .finalize => 0
  | .readH idx => BitVec.ofFin idx

/-- The DATA field the assembler writes: 0 for mnemonics that take no data (R79). -/
def Instr.data : Instr → Word32
  | .nop => 0
  | .init => 0
  | .absorb _ d => d
  | .finalize => 0
  | .readH _ => 0

/-- `enc(op, arg, data)` (R79): DATA, 25 zero bits, ARG, OP, most significant first. -/
def enc (op : BitVec 4) (arg : BitVec 3) (data : Word32) : Cmd64 := data ++ 0#25 ++ arg ++ op

/-- The word the assembler writes for a command (R79). -/
def encode (i : Instr) : Cmd64 := enc i.op i.arg i.data

/-- The command in a word given as a number whose bits above `nbits` are taken as 0; none where decoding gives an error code. -/
def decodeTableWord (nbits w : Nat) : Option Instr :=
  match decode (BitVec.ofNat 64 (w % 2 ^ nbits)) with
  | .command i => some i
  | .illegal _ => none

end Sys2Proof
end

