-- ==== Sys2Proof/Config.lean ====
section
/-! DEFINITION. What one implementation fixes (the open parameters of R9) and the free values: contents the spec leaves
unspecified (U1, U2, U3). A free value has no body that anything can see, so whatever is proved holds for every value of it. -/

namespace Sys2Proof

/-- The unroll factors U that R158 admits. -/
inductive Unroll where
  | u2 | u4 | u8 | u16 | u32 | u64
  deriving DecidableEq, Repr

/-- `ROUND_IMPL` (R9, D20): rounds per engine step. -/
inductive RoundImpl where
  | serial
  | unrolled (u : Unroll)
  deriving DecidableEq, Repr

/-- `SCHED_IMPL` (R9, R145, D21): how the schedule is stored. -/
inductive SchedImpl where
  | array64
  | window16
  deriving DecidableEq, Repr

/-- `RESET_KIND` (R9, R243, D23): how `rst` is sampled in time, which the model does not represent. -/
inductive ResetKind where
  | sync
  | async
  deriving DecidableEq, Repr

/-- The four open parameters of R9. `compressSteps` (R256, D22) and `resetKind` (R243) are timing only: the spec lets no rule
depend on them, so nothing reads them. -/
structure Impl where
  rounds        : RoundImpl
  sched         : SchedImpl
  compressSteps : Nat
  resetKind     : ResetKind
  deriving DecidableEq, Repr

/-- The values R9 allows: `COMPRESS_STEPS` is at least 1. -/
abbrev Impl.wf (c : Impl) : Prop := 1 ≤ c.compressSteps

/-- Byte `i` of the `n`-th draw of unspecified contents (M after reset, R27, U1). Log entry 7. -/
opaque Config.freeByte : Nat → Nat → Byte

/-- Word `i` of the `n`-th draw of unspecified contents (a..h, W, Wbuf after reset and outside a compression, R31, R32, U2).
Log entries 7 and 8. -/
opaque Config.freeWord : Nat → Nat → Word32

/-- The word on `rsp` while `rsp_valid` = 0 (R42, U3), in the state that has made `n` draws. Log entry 9. -/
opaque Config.freeRsp : Nat → Word32

end Sys2Proof
end

