-- ==== Sys2Proof/Machine/Constants.lean ====
section
/-! DEFINITION. The two read-only constant stores K and IV (R39, R110, R111). -/

namespace Sys2Proof.Machine

/-- K[0..7] (R110). -/
def kRow0 : Vector Word32 8 :=
  #v[0x428a2f98, 0x71374491, 0xb5c0fbcf, 0xe9b5dba5, 0x3956c25b, 0x59f111f1, 0x923f82a4, 0xab1c5ed5]

/-- K[8..15] (R110). -/
def kRow1 : Vector Word32 8 :=
  #v[0xd807aa98, 0x12835b01, 0x243185be, 0x550c7dc3, 0x72be5d74, 0x80deb1fe, 0x9bdc06a7, 0xc19bf174]

/-- K[16..23] (R110). -/
def kRow2 : Vector Word32 8 :=
  #v[0xe49b69c1, 0xefbe4786, 0x0fc19dc6, 0x240ca1cc, 0x2de92c6f, 0x4a7484aa, 0x5cb0a9dc, 0x76f988da]

/-- K[24..31] (R110). -/
def kRow3 : Vector Word32 8 :=
  #v[0x983e5152, 0xa831c66d, 0xb00327c8, 0xbf597fc7, 0xc6e00bf3, 0xd5a79147, 0x06ca6351, 0x14292967]

/-- K[32..39] (R110). -/
def kRow4 : Vector Word32 8 :=
  #v[0x27b70a85, 0x2e1b2138, 0x4d2c6dfc, 0x53380d13, 0x650a7354, 0x766a0abb, 0x81c2c92e, 0x92722c85]

/-- K[40..47] (R110). -/
def kRow5 : Vector Word32 8 :=
  #v[0xa2bfe8a1, 0xa81a664b, 0xc24b8b70, 0xc76c51a3, 0xd192e819, 0xd6990624, 0xf40e3585, 0x106aa070]

/-- K[48..55] (R110). -/
def kRow6 : Vector Word32 8 :=
  #v[0x19a4c116, 0x1e376c08, 0x2748774c, 0x34b0bcb5, 0x391c0cb3, 0x4ed8aa4a, 0x5b9cca4f, 0x682e6ff3]

/-- K[56..63] (R110). -/
def kRow7 : Vector Word32 8 :=
  #v[0x748f82ee, 0x78a5636f, 0x84c87814, 0x8cc70208, 0x90befffa, 0xa4506ceb, 0xbef9a3f7, 0xc67178f2]

/-- K[0..63], the round constants (R110). -/
def K : Vector Word32 64 :=
  kRow0 ++ kRow1 ++ kRow2 ++ kRow3 ++ kRow4 ++ kRow5 ++ kRow6 ++ kRow7

/-- IV[0..7], the initial hash value (R111). -/
def IV : Vector Word32 8 :=
  #v[0x6a09e667, 0xbb67ae85, 0x3c6ef372, 0xa54ff53a, 0x510e527f, 0x9b05688c, 0x1f83d9ab, 0x5be0cd19]

end Sys2Proof.Machine
end

