-- ==== Sys2Proof/Machine/Primitives.lean ====
section
/-! DEFINITION. The 32-bit operations the schedule expander and the round unit are built from (R100 to R109), and the byte
order at every byte-to-word boundary (R13, R51). -/

namespace Sys2Proof.Machine

/-- `rotr(x, n)`, for 0 < n < 32 (R100). -/
def rotr (x : Word32) (n : Nat) : Word32 := (x >>> n) ||| (x <<< (32 - n))

/-- `Ch(e, f, g)` (R103). -/
def ch (e f g : Word32) : Word32 := (e &&& f) ^^^ (~~~e &&& g)

/-- `Maj(a, b, c)` (R104). -/
def maj (a b c : Word32) : Word32 := (a &&& b) ^^^ (a &&& c) ^^^ (b &&& c)

/-- `Σ0(a)`, the whole three-term XOR (R105, R109). -/
def bigSigma0 (a : Word32) : Word32 := rotr a 2 ^^^ rotr a 13 ^^^ rotr a 22

/-- `Σ1(e)` (R106). -/
def bigSigma1 (e : Word32) : Word32 := rotr e 6 ^^^ rotr e 11 ^^^ rotr e 25

/-- `σ0(x)`; its third term is a shift (R107). -/
def smallSigma0 (x : Word32) : Word32 := rotr x 7 ^^^ rotr x 18 ^^^ (x >>> 3)

/-- `σ1(x)`; its third term is a shift (R108). -/
def smallSigma1 (x : Word32) : Word32 := rotr x 17 ^^^ rotr x 19 ^^^ (x >>> 10)

/-- `be32(b0, b1, b2, b3)`: b0 most significant (R13). -/
def be32 (b0 b1 b2 b3 : Byte) : Word32 := b0 ++ b1 ++ b2 ++ b3

/-- `be32⁻¹(w)`: the four bytes of a word, most significant first (R13). -/
def be32Bytes (w : Word32) : List Byte :=
  [w.extractLsb' 24 8, w.extractLsb' 16 8, w.extractLsb' 8 8, w.extractLsb' 0 8]

/-- `be64⁻¹(v)`: the eight bytes of a 64-bit value, most significant first (R13). -/
def be64Bytes (v : BitVec 64) : List Byte :=
  [v.extractLsb' 56 8, v.extractLsb' 48 8, v.extractLsb' 40 8, v.extractLsb' 32 8,
   v.extractLsb' 24 8, v.extractLsb' 16 8, v.extractLsb' 8 8, v.extractLsb' 0 8]

end Sys2Proof.Machine
end

