-- ==== Sys2Proof/Machine/Schedule.lean ====
section
/-! DEFINITION. The message schedule expander (R140 to R146): the 64-word schedule of a block, and the 16-word circular store
that `SCHED_IMPL = window16` keeps in its place (R145). -/

namespace Sys2Proof.Machine

/-- The bytes of one block, blk[0..63]. -/
abbrev Block := Vector Byte 64

/-- Native word i < 16 of a block, big-endian (R140). -/
def nativeWord (blk : Block) (i : Fin 16) : Word32 :=
  be32 blk[4 * i.val] blk[4 * i.val + 1] blk[4 * i.val + 2] blk[4 * i.val + 3]

/-- The sixteen native words (R140). -/
def nativeWords (blk : Block) : Vector Word32 16 := Vector.ofFn (nativeWord blk)

/-- The sum that makes an expanded word out of W[i-16], W[i-15], W[i-7] and W[i-2]; both σ terms are whole before they enter it
(R141, R142). -/
def expandSum (w16 w15 w7 w2 : Word32) : Word32 := w16 + smallSigma0 w15 + w7 + smallSigma1 w2

/-- The schedule after `n` words have been expanded: words 0 to n + 15 hold W[0..n+15], the rest are still 0. -/
def expanded (blk : Block) : (n : Nat) → n ≤ 48 → Vector Word32 64
  | 0, _ => Vector.ofFn fun i => if h : i.val < 16 then nativeWord blk ⟨i.val, h⟩ else 0
  | n + 1, h =>
    let w := expanded blk n (by omega)
    w.set (n + 16) (expandSum w[n] w[n + 1] w[n + 9] w[n + 14])

/-- W[0..63] of a block (R140, R141): a function of the block alone (R143). -/
def schedule (blk : Block) : Vector Word32 64 := expanded blk 48 (by omega)

/-- Round t's update of the circular store under `window16`: nothing for t < 16; for t ≥ 16 slot t mod 16 takes W[t] (R145). The
indices t + 1, t + 9 and t + 14 are t - 15, t - 7 and t - 2 modulo 16. -/
def windowUpdate (t : Nat) (buf : Vector Word32 16) : Vector Word32 16 :=
  if 16 ≤ t then
    buf.set (t % 16)
      (expandSum buf[t % 16] buf[(t + 1) % 16] buf[(t + 9) % 16] buf[(t + 14) % 16])
  else buf

end Sys2Proof.Machine
end

