-- ==== Sys2Proof/Machine/Round.lean ====
section
/-! DEFINITION. The round function over the eight working variables (R150 to R153), and the number of rounds an engine step
performs (R155, R158). -/

namespace Sys2Proof.Machine

/-- The working variables a..h (R31). -/
structure Working where
  a : Word32
  b : Word32
  c : Word32
  d : Word32
  e : Word32
  f : Word32
  g : Word32
  h : Word32
  deriving DecidableEq, Repr

/-- `temp1` of R151, from the variables as they were before the round, K[t] and W[t]. -/
def temp1 (v : Working) (k w : Word32) : Word32 := v.h + bigSigma1 v.e + ch v.e v.f v.g + k + w

/-- `temp2` of R151. -/
def temp2 (v : Working) : Word32 := bigSigma0 v.a + maj v.a v.b v.c

/-- `Round(t, (a,…,h), w)` (R151): a simultaneous assignment (R152). -/
def shaRound (t : Fin 64) (v : Working) (w : Word32) : Working :=
  { a := temp1 v K[t] w + temp2 v, b := v.a, c := v.b, d := v.c,
    e := v.d + temp1 v K[t] w, f := v.e, g := v.f, h := v.g }

/-- The factor U of `unrolled(U)` (R158). -/
def unrollFactor : Unroll → Nat
  | .u2 => 2
  | .u4 => 4
  | .u8 => 8
  | .u16 => 16
  | .u32 => 32
  | .u64 => 64

/-- Rounds done by one engine step: 1 under `serial` (R155), U under `unrolled(U)` (R158). -/
def roundsPerStep : RoundImpl → Nat
  | .serial => 1
  | .unrolled u => unrollFactor u

end Sys2Proof.Machine
end

