-- ==== Sys2Proof/Machine/Accumulator.lean ====
section
/-! DEFINITION. The hash state, its pairing with the working variables, and the compression function (R23, R170, R171). -/

namespace Sys2Proof.Machine

/-- The hash state H[0..7] (R23). -/
abbrev Hash := Vector Word32 8

/-- The working variables loaded from H: a from H[0], …, h from H[7] (R23, R154). -/
def loadWorking (H : Hash) : Working :=
  { a := H[0], b := H[1], c := H[2], d := H[3], e := H[4], f := H[5], g := H[6], h := H[7] }

/-- "H[i] <- H[i] + v[i]" for all eight words at once, mod 2^32 each (R170). -/
def addWorking (H : Hash) (v : Working) : Hash :=
  #v[H[0] + v.a, H[1] + v.b, H[2] + v.c, H[3] + v.d, H[4] + v.e, H[5] + v.f, H[6] + v.g, H[7] + v.h]

/-- The first `n` rounds, t = 0 to n - 1 in order, each with its W[t] (R155, R171). -/
def firstRounds (W : Vector Word32 64) (v : Working) : (n : Nat) → n ≤ 64 → Working
  | 0, _ => v
  | n + 1, h => shaRound ⟨n, h⟩ (firstRounds W v n (by omega)) W[n]

/-- `Compress(Hin, blk)` (R171). -/
def compress (Hin : Hash) (blk : Block) : Hash :=
  addWorking Hin (firstRounds (schedule blk) (loadWorking Hin) 64 (by omega))

end Sys2Proof.Machine
end

