-- ==== Sys2Proof/Machine/State.lean ====
section
/-! DEFINITION. The state of one core instance (R20), the host's side of its ports (R40), the open parameters (R9), the state
after reset, and the reasons a step could stop. -/

namespace Sys2Proof.Machine

/-- The engine's sequencing state (R30). The round counter t lives inside `round t` (R22). -/
inductive Phase where
  /-- IDLE: bytes may be appended. -/
  | idle
  /-- ROUND(t): the next engine step performs round t. -/
  | round (t : Fin 64)
  /-- ACCUM: the next engine step adds the working variables into H. -/
  | accum
  deriving DecidableEq, Repr

/-- What the host does in one step, over and above the levels it holds on the ports. At most one of the five events of R221
happens in a step, and the plan of these turns says which (log entries 1 and 2). -/
inductive HostTurn where
  /-- The host only holds its levels: the core's own next event happens (an engine step, or a handshake that stands ready). -/
  | core
  /-- The host reads the status word (R37). -/
  | readStatus
  /-- The host drives `rst` to this level (R240, R242). -/
  | driveRst (level : Bool)
  /-- The host drives `rsp_ready` to this level (R42). -/
  | driveRspReady (level : Bool)
  /-- The host offers one more command word, behind those it already holds out (R41). -/
  | offer (w : Cmd64)
  deriving DecidableEq, Repr

/-- The host's side of the boundary (R40) and what the host has observed (R204). Log entry 1. -/
structure Port where
  /-- The level of `rst`. -/
  rst      : Bool
  /-- The command words the host holds out, in the order it offers them: `cmd_valid` = not empty, `cmd` = the first (R41). -/
  offers   : List Cmd64
  /-- The level of `rsp_ready`. -/
  rspReady : Bool
  /-- The host's turns still to come, oldest first; after the last one the host only holds its levels. -/
  plan     : List HostTurn
  /-- The responses the host has taken, oldest first. -/
  taken    : List Word32
  /-- The status words the host has read, oldest first. -/
  reads    : List Word32
  deriving DecidableEq, Repr

/-- Every item of R20, under the spec's names, then the host's side, the open parameters and the count of draws. K and IV are
constants with no mutation path (R39), so they are definitions, not fields. -/
structure State where
  /-- H[0..7], the hash state (R23). -/
  H       : Hash
  /-- L, the bit length of the message modulo 2^64 (R25). -/
  L       : BitVec 64
  /-- p, the fill count of M (R26). -/
  p       : Fin 64
  /-- M[0..63], the block buffer (R27). -/
  M       : Block
  /-- Q, the bytes still to be appended, head first out (R28, R128). -/
  Q       : List Byte
  /-- FIN (R29). -/
  FIN     : Bool
  /-- phase (R30). -/
  phase   : Phase
  /-- The working variables a..h (R31). -/
  work    : Working
  /-- W[0..63], the schedule store of `array64` (R32, R145). -/
  W       : Vector Word32 64
  /-- Wbuf[0..15], the circular store of `window16` (R145). -/
  Wbuf    : Vector Word32 16
  /-- DONE (R34). -/
  DONE    : Bool
  /-- ERR (R35). -/
  ERR     : Bool
  /-- ERRCODE (R35, R210). -/
  ERRCODE : ErrCode
  /-- RSP, the response slot (R38). -/
  RSP     : Option Word32
  /-- The host's side of the ports (R40). -/
  port    : Port
  /-- The open parameters, fixed for one machine (R9). Log entry 6. -/
  impl    : Impl
  /-- How many times unspecified contents have been drawn from `Config`'s free values. Log entry 7. -/
  draws   : Nat
  deriving DecidableEq, Repr

/-- The reasons a step could stop with a fault. The spec gives this core none: "The core has no trap mechanism" (R217), "Nothing
in the padder, the expander, the round unit or the accumulator raises an error" (60_exceptions.md), and a malformed or
out-of-sequence command is an error record, which is a next state (R214). So the type has no constructor, nobody raises a
fault, and that is safe. Log entry 13. -/
inductive Fault where
  deriving DecidableEq, Repr

/-- The reasons an instruction could be refused. -/
inductive Refusal where
  /-- An instruction with no meaning yet, by its mnemonic; raised only by a refused arm of `exec`, of which there are none, so
  nobody raises it. Safe: the machine would stop where the hardware goes on. -/
  | notModelled (mnemonic : String)
  deriving DecidableEq, Repr

/-- The working variables at reset: unspecified (R31), named 0 here. Log entry 4. -/
def Working.atReset : Working := { a := 0, b := 0, c := 0, d := 0, e := 0, f := 0, g := 0, h := 0 }

/-- The host's side before anything has happened. Log entry 5. -/
def Port.atReset : Port :=
  { rst := false, offers := [], rspReady := true, plan := [], taken := [], reads := [] }

/-- The reference machine: `serial` (R9's reference value), `array64`. Log entry 6. -/
def Impl.reference : Impl :=
  { rounds := .serial, sched := .array64, compressSteps := 1, resetKind := .sync }

/-- The machine right after reset: the reset column of R20, with M, a..h, W and Wbuf (unspecified there) named 0 in log entries
3 and 4, and `rst` released (R242). -/
def State.reset : State :=
  { H := IV, L := 0, p := 0, M := Vector.replicate 64 0, Q := [], FIN := false, phase := .idle,
    work := Working.atReset, W := Vector.replicate 64 0, Wbuf := Vector.replicate 16 0,
    DONE := false, ERR := false, ERRCODE := .none, RSP := none,
    port := Port.atReset, impl := Impl.reference, draws := 0 }

end Sys2Proof.Machine
end

