-- ==== Sys2Proof/Machine/Flags.lean ====
section
/-! DEFINITION. The flags, the status word and the core's outputs, all of them functions of the state (R33, R36, R41, R42).
No arithmetic writes a flag (R44). -/

namespace Sys2Proof.Machine

/-- BUSY (R33): phase ≠ IDLE, or Q not empty, or FIN = 1. -/
def busy (s : State) : Bool := decide (s.phase ≠ .idle) || !s.Q.isEmpty || s.FIN

/-- Quiescent (R33): BUSY = 0 and RSP empty. -/
def quiescent (s : State) : Bool := !busy s && s.RSP.isNone

/-- The status word of R36, `zext_32({ERRCODE, 0b0, ERR, DONE, BUSY})`, as it stands while `rst` is not asserted. -/
def statusBits (s : State) : Word32 :=
  (s.ERRCODE.bits ++ 0#1 ++ BitVec.ofBool s.ERR ++ BitVec.ofBool s.DONE ++ BitVec.ofBool (busy s)).setWidth 32

/-- The `status` port: the status word, and 0 while `rst` is asserted (R36, R242). -/
def statusWord (s : State) : Word32 := if s.port.rst then 0 else statusBits s

/-- `cmd_valid` (R40): the host offers a command. -/
def cmdValid (s : State) : Bool := !s.port.offers.isEmpty

/-- `cmd_ready` (R41): quiescent, and `rst` not asserted. -/
def cmdReady (s : State) : Bool := quiescent s && !s.port.rst

/-- `rsp_valid` (R42): RSP is not empty; 0 while `rst` is asserted (R242). -/
def rspValid (s : State) : Bool := s.RSP.isSome && !s.port.rst

/-- The `rsp` port: the word in RSP, and a free value while `rsp_valid` = 0 (R42, U3). Log entry 9. -/
def rspWord (s : State) : Word32 :=
  if rspValid s then s.RSP.getD 0 else Config.freeRsp s.draws

end Sys2Proof.Machine
end

