-- ==== Sys2Proof/Machine/Operands.lean ====
section
/-! DEFINITION. The operand forms: ABSORB's NB and DATA bytes (R73, R74). READ_H's IDX is an index as it stands (R73). -/

namespace Sys2Proof.Machine

/-- NB is in 1..4 (R73); 0, 5, 6 and 7 are BAD_NB (R210). -/
def nbLegal (nb : BitVec 3) : Bool := decide (nb ≠ 0) && decide (nb.toNat ≤ 4)

/-- Message byte j of DATA, `DATA[31-8j : 24-8j]` (R74), for j in 0..3. -/
def dataByte (data : Word32) (j : Nat) : Byte := data.extractLsb' (24 - 8 * j) 8

/-- The NB message bytes of an ABSORB, first byte most significant; the bytes at j ≥ NB are ignored (R74). -/
def absorbBytes (nb : BitVec 3) (data : Word32) : List Byte :=
  (List.range nb.toNat).map (dataByte data)

end Sys2Proof.Machine
end

