-- ==== Sys2Proof/Machine/Padder.lean ====
section
/-! DEFINITION. The message padder: the padding function of the source (R120) and the padding tail that FINALIZE loads
(R125). -/

namespace Sys2Proof.Machine

/-- The loop of R120: 0x00 bytes are appended until the length in bits is 448 modulo 512. `fuel` bounds the turns; 64 suffice
for every message (R122). -/
def appendZeros : (fuel : Nat) → List Byte → List Byte
  | 0, s => s
  | fuel + 1, s => if (8 * s.length) % 512 = 448 then s else appendZeros fuel (s ++ [0])

/-- `pad(m)` (R120): 0x80, the zero bytes, and the bit length modulo 2^64 (R121), most significant byte first. -/
def pad (m : List Byte) : List Byte :=
  appendZeros 64 (m ++ [0x80]) ++ be64Bytes (BitVec.ofNat 64 (8 * m.length))

/-- The number of zero bytes in the padding tail for the fill count p, `(55 - p) mod 64` (R125), a value in 0..63. -/
def tailZeros (p : Nat) : Nat := (55 + 64 - p % 64) % 64

/-- `pad_tail(p, L)` (R125). -/
def padTail (p : Fin 64) (L : BitVec 64) : List Byte :=
  0x80 :: (List.replicate (tailZeros p) 0 ++ be64Bytes L)

end Sys2Proof.Machine
end

