-- ==== Sys2Proof/Machine/Ops.lean ====
section
/-! DEFINITION. The named operations on the state that commands, engine steps and host steps are built from. -/

namespace Sys2Proof.Machine

/-- `raise Error(c)` (R214), the one way this core takes an exception: the first code since INIT or reset is recorded, and
nothing else changes. There is no return from it (R218): INIT and reset clear the record. -/
def raiseError (c : ErrCode) (s : State) : State :=
  if s.ERR then s else { s with ERR := true, ERRCODE := c }

/-- The gate of R180 for ABSORB and FINALIZE: ignored while ERR = 1 (R215), else SEQUENCE while DONE = 1 (R212), else the
command is performed. -/
def gated (perform : State → State) (s : State) : State :=
  if s.ERR then s else if s.DONE then raiseError .sequence s else perform s

/-- `Respond(v)` (R186). -/
def respond (v : Word32) (s : State) : State := { s with RSP := some v }

/-- INIT's effect (R183): M is not written. -/
def startMessage (s : State) : State :=
  { s with H := IV, L := 0, p := 0, DONE := false, ERR := false, ERRCODE := .none }

/-- ABSORB's effect after the gate (R184, R124). -/
def loadMessage (nb : BitVec 3) (data : Word32) (s : State) : State :=
  { s with L := s.L + BitVec.ofNat 64 (8 * nb.toNat), Q := absorbBytes nb data }

/-- FINALIZE's effect after the gate (R185): p and L as at acceptance; L is not changed. -/
def loadTail (s : State) : State := { s with Q := padTail s.p s.L, FIN := true }

/-- The `n`-th draw of a..h (R31, U2). -/
def drawnWorking (n : Nat) : Working :=
  { a := Config.freeWord n 0, b := Config.freeWord n 1, c := Config.freeWord n 2, d := Config.freeWord n 3,
    e := Config.freeWord n 4, f := Config.freeWord n 5, g := Config.freeWord n 6, h := Config.freeWord n 7 }

/-- The `n`-th draw of W (R32, U2). -/
def drawnW (n : Nat) : Vector Word32 64 := Vector.ofFn fun i => Config.freeWord n (8 + i.val)

/-- The `n`-th draw of Wbuf (R32, R145, U2). -/
def drawnWbuf (n : Nat) : Vector Word32 16 := Vector.ofFn fun i => Config.freeWord n (72 + i.val)

/-- The `n`-th draw of M (R27, U1). -/
def drawnM (n : Nat) : Block := Vector.ofFn fun i => Config.freeByte n i.val

/-- Outside a compression a..h and the schedule store are unspecified (R31, R32): free values. Log entry 8. -/
def releaseScratch (s : State) : State :=
  { s with work := drawnWorking s.draws, W := drawnW s.draws, Wbuf := drawnWbuf s.draws, draws := s.draws + 1 }

/-- Reset (R240), from any state (R241): every item to its reset value; M, a..h and the schedule store become unspecified. The
host's side is not the core's to reset. -/
def resetCore (s : State) : State :=
  { releaseScratch s with
    H := IV, L := 0, p := 0, M := drawnM s.draws, Q := [], FIN := false, phase := .idle,
    DONE := false, ERR := false, ERRCODE := .none, RSP := none }

/-- `StartCompression()` (R154): a..h from H, the schedule of the block in M under either storage (R145), phase ROUND(0). -/
def startCompression (s : State) : State :=
  match s.impl.sched with
  | .array64 => { s with work := loadWorking s.H, W := schedule s.M, phase := .round 0 }
  | .window16 => { s with work := loadWorking s.H, Wbuf := nativeWords s.M, phase := .round 0 }

/-- `BufAppend(b)` (R127). -/
def bufAppend (b : Byte) (s : State) : State :=
  if h : s.p.val = 63 then startCompression { s with M := s.M.set s.p.val b, p := 0 }
  else { s with M := s.M.set s.p.val b, p := ⟨s.p.val + 1, by omega⟩ }

end Sys2Proof.Machine
end

