-- ==== Sys2Proof/Machine/Control.lean ====
section
/-! DEFINITION. The commands that handle no message byte and no response: NOP (R182) and INIT (R183). -/

namespace Sys2Proof.Machine

/-- NOP (R182): no effect, also while ERR = 1 or DONE = 1. -/
def execNop (s : State) : Host.Outcome State Fault Refusal := .next s

/-- INIT (R183): a new message; legal while ERR = 1 or DONE = 1, and the only command that clears them. -/
def execInit (s : State) : Host.Outcome State Fault Refusal := .next (startMessage s)

end Sys2Proof.Machine
end

