-- ==== Sys2Proof/Machine/Digest.lean ====
section
/-! DEFINITION. The command that reads the hash state: READ_H (R192). -/

namespace Sys2Proof.Machine

/-- READ_H idx (R192): `Respond(H[IDX])`, also while ERR = 1 or DONE = 1. -/
def execReadH (idx : Fin 8) (s : State) : Host.Outcome State Fault Refusal := .next (respond s.H[idx] s)

end Sys2Proof.Machine
end

