-- ==== Sys2Proof/Machine/Message.lean ====
section
/-! DEFINITION. The commands that feed the padder: ABSORB (R184) and FINALIZE (R185). -/

namespace Sys2Proof.Machine

/-- ABSORB nb, data (R184). An NB outside 1..4 is code 3 before the gate (R211); the decoder has already given that verdict on
every word, so the test here is for the operand as it stands (log entry 12). -/
def execAbsorb (nb : BitVec 3) (data : Word32) (s : State) : Host.Outcome State Fault Refusal :=
  if nbLegal nb then .next (gated (loadMessage nb data) s) else .next (raiseError .badNb s)

/-- FINALIZE (R185). -/
def execFinalize (s : State) : Host.Outcome State Fault Refusal := .next (gated loadTail s)

end Sys2Proof.Machine
end

