-- ==== Sys2Proof/Machine/Dispatch.lean ====
section
/-! DEFINITION. `exec`: one arm per command. It is the effect of an ACCEPTED command (R180); the handshake is `coreStep`'s. -/

namespace Sys2Proof.Machine

def exec (i : Instr) (s : State) : Host.Outcome State Fault Refusal :=
  match i with
  | .nop => Sys2Proof.Machine.execNop s
  | .init => Sys2Proof.Machine.execInit s
  | .absorb nb data => Sys2Proof.Machine.execAbsorb nb data s
  | .finalize => Sys2Proof.Machine.execFinalize s
  | .readH idx => Sys2Proof.Machine.execReadH idx s

end Sys2Proof.Machine
end

