-- ==== Sys2Proof/Machine/Engine.lean ====
section
/-! DEFINITION. The engine's steps (R195 to R198): round, accumulate, append, finish. -/

namespace Sys2Proof.Machine

/-- Round t on the working variables, with W[t] from the schedule store in use: read from W under `array64`; made in Wbuf and read
back from it under `window16` (R145, R151). -/
def oneRound (t : Fin 64) (s : State) : State :=
  match s.impl.sched with
  | .array64 => { s with work := shaRound t s.work s.W[t] }
  | .window16 =>
    let buf := windowUpdate t.val s.Wbuf
    { s with Wbuf := buf, work := shaRound t s.work buf[t.val % 16] }

/-- `n` rounds in sequence from round `t` on, each on the result of the one before (R158), and none past round 63. -/
def runRounds : (n t : Nat) → State → State
  | 0, _, s => s
  | n + 1, t, s => if h : t < 64 then runRounds n (t + 1) (oneRound ⟨t, h⟩ s) else s

/-- The phase after an engine step that began in ROUND(t) and did `u` rounds (R155, R158). -/
def phaseAfter (t u : Nat) : Phase := if h : t + u < 64 then .round ⟨t + u, h⟩ else .accum

/-- The round step (R155 under `serial`, R158 under `unrolled(U)`). -/
def roundStep (t : Fin 64) (s : State) : State :=
  { runRounds (roundsPerStep s.impl.rounds) t.val s with phase := phaseAfter t.val (roundsPerStep s.impl.rounds) }

/-- The accumulate step (R170); the compression is over, so a..h and the schedule store become unspecified (R31, R32). -/
def accumulateStep (s : State) : State :=
  { releaseScratch s with H := addWorking s.H s.work, phase := .idle }

/-- The finish step (R198). -/
def finishStep (s : State) : State := { s with DONE := true, FIN := false }

/-- The one engine step that is enabled, by R196's table; with BUSY = 0 there is none and the state stays as it is (R195). -/
def engineStep (s : State) : State :=
  match s.phase with
  | .round t => roundStep t s
  | .accum => accumulateStep s
  | .idle =>
    match s.Q with
    | b :: q => bufAppend b { s with Q := q }
    | [] => if s.FIN then finishStep s else s

/-- `n` engine steps. -/
def engineRun : Nat → State → State
  | 0, s => s
  | n + 1, s => engineRun n (engineStep s)

end Sys2Proof.Machine
end

