-- ==== Sys2Proof/Machine/Accept.lean ====
section
/-! DEFINITION. The events of R221 other than the engine's: a command accepted (R180), a response taken (R42), a status read
(R37), a reset (R240); and the core's own next event. -/

namespace Sys2Proof.Machine

/-- `Accept(w)` (R180): an illegal word raises its error and is consumed (R214); a command has its effect. -/
def accept (w : Cmd64) (s : State) : Host.Outcome State Fault Refusal :=
  match decode w with
  | .illegal c => .next (raiseError c s)
  | .command i => exec i s

/-- The state with other levels on the host's side of the ports. -/
def withPort (P : Port) (s : State) : State := { s with port := P }

/-- The host's plan without its first turn. -/
def withPlan (plan : List HostTurn) (s : State) : State := { s with port := { s.port with plan := plan } }

/-- The host's offers without the one just accepted. -/
def withOffers (offers : List Cmd64) (s : State) : State := { s with port := { s.port with offers := offers } }

/-- The host takes the response v and empties RSP (R42). -/
def takeResponse (v : Word32) (s : State) : State :=
  { s with RSP := none, port := { s.port with taken := s.port.taken ++ [v] } }

/-- A status read (R37): the host sees the status word as it stands; nothing of the core changes. -/
def readStatus (s : State) : State :=
  { s with port := { s.port with reads := s.port.reads ++ [statusWord s] } }

/-- A step in which `rst` is asserted puts the core in its reset state (R240), whatever else the host does in it. -/
def heldInReset (s : State) : State := if s.port.rst then resetCore s else s

/-- The core's own next event, with the host holding its levels: reset while `rst` is asserted; the engine's step while BUSY = 1
(R195); else the response leaves if the host is ready for it (R42); else the offered command is accepted if `cmd_ready` = 1
(R41); else nothing can happen and the state stays as it is (R228, R253; log entry 11). -/
def coreStep (s : State) : Host.Outcome State Fault Refusal :=
  if s.port.rst then .next (resetCore s)
  else if busy s then .next (engineStep s)
  else
    match s.RSP, s.port.offers with
    | some v, _ => if s.port.rspReady then .next (takeResponse v s) else .next s
    | none, w :: ws => accept w (withOffers ws s)
    | none, [] => .next s

/-- One step in which the host does more than hold its levels. -/
def hostStep (turn : HostTurn) (s : State) : Host.Outcome State Fault Refusal :=
  match turn with
  | .core => coreStep s
  | .readStatus => .next (heldInReset (readStatus s))
  | .driveRst level => .next (heldInReset (withPort { s.port with rst := level } s))
  | .driveRspReady level => .next (heldInReset (withPort { s.port with rspReady := level } s))
  | .offer w => .next (heldInReset (withOffers (s.port.offers ++ [w]) s))

/-- The state with the command word `w` as the host's next offer, and nothing that would hold it back: `rst` released, the core
quiescent, no turn planned before it. Log entry 10. -/
def placeCommand (w : Cmd64) (s : State) : State :=
  { s with
    Q := [], FIN := false, phase := .idle, RSP := none,
    port := { s.port with rst := false, plan := [], offers := w :: s.port.offers } }

end Sys2Proof.Machine
end

