-- ==== Sys2Proof/Machine/Step.lean ====
section
/-! DEFINITION. One step of the whole: the host's next planned turn, or, with none planned, the core's own next event. -/

namespace Sys2Proof.Machine

/-- One step (R15, R221): exactly one turn of the host's plan, and with no turn planned the host holds its levels. -/
def step (s : State) : Host.Outcome State Fault Refusal :=
  match s.port.plan with
  | [] => coreStep s
  | turn :: rest => hostStep turn (withPlan rest s)

/-- `s` with the word `w` (bits above `nbits` 0) offered so that the very next step accepts it. The core fetches nothing (R22):
its commands come from the host, so this stands for the host's offer. Log entries 1 and 10. -/
def State.withFetchWord (s : State) (nbits w : Nat) : State :=
  placeCommand (BitVec.ofNat 64 (w % 2 ^ nbits)) s

end Sys2Proof.Machine
end

