-- ==== Sys2Proof/Machine/Assembler.lean ====
section
/-! DEFINITION. The assembler, the disassembler and the pseudo-instructions (R78 to R81). They are no hardware (D30): the core
sees only the words. -/

namespace Sys2Proof.Machine

/-- One line of assembly, its operands as the numbers written (R78). -/
inductive AsmLine where
  | nop
  | init
  | absorb (nb data : Nat)
  | finalize
  | readH (idx : Nat)
  /-- `.cmd value`: the raw word, legal or not. -/
  | raw (value : Nat)
  deriving DecidableEq, Repr

/-- A pseudo-instruction with its operand (R81); the operand of `HASH` is the bytes of its string. -/
inductive Pseudo where
  | absorbB (b : Byte)
  | absorbH (h : BitVec 16)
  | absorbW (w : Word32)
  | readDigest
  | hash (message : List Byte)
  deriving DecidableEq, Repr

/-- What one line of text holds: no command (log entry 15), a line, or a pseudo-instruction. -/
inductive AsmText where
  | blank
  | line (l : AsmLine)
  | pseudo (p : Pseudo)
  deriving DecidableEq, Repr

/-- The word of a line, or none where the assembler rejects it (R78, R79, U18). -/
def assemble : AsmLine → Option Cmd64
  | .nop => some (encode .nop)
  | .init => some (encode .init)
  | .absorb nb data =>
    if 1 ≤ nb ∧ nb ≤ 4 ∧ data < 2 ^ 32 then
      some (encode (.absorb (BitVec.ofNat 3 nb) (BitVec.ofNat 32 data)))
    else none
  | .finalize => some (encode .finalize)
  | .readH idx => if h : idx < 8 then some (encode (.readH ⟨idx, h⟩)) else none
  | .raw value => if value < 2 ^ 64 then some (BitVec.ofNat 64 value) else none

/-- A legal word by its mnemonic, ABSORB's data with the ignored low bytes included; an illegal word as `.cmd` (R79). -/
def disassemble (w : Cmd64) : AsmLine :=
  match decode w with
  | .illegal _ => .raw w.toNat
  | .command .nop => .nop
  | .command .init => .init
  | .command (.absorb nb data) => .absorb nb.toNat data.toNat
  | .command .finalize => .finalize
  | .command (.readH idx) => .readH idx.val

/-- ABSORBs of a message: one per full 4-byte group, then one for the last 1 to 3 bytes (R81). DESIGN CHOICE (log entry 15): the
ignored DATA bytes of the last one are 0; R81 leaves them open, and R74 lets them hold any value. -/
def absorbAll : List Byte → List Instr
  | [] => []
  | [b0] => [.absorb 1 (be32 b0 0 0 0)]
  | [b0, b1] => [.absorb 2 (be32 b0 b1 0 0)]
  | [b0, b1, b2] => [.absorb 3 (be32 b0 b1 b2 0)]
  | b0 :: b1 :: b2 :: b3 :: rest => .absorb 4 (be32 b0 b1 b2 b3) :: absorbAll rest

/-- `READ_H 0` … `READ_H 7` (R81). -/
def readDigest : List Instr :=
  [.readH 0, .readH 1, .readH 2, .readH 3, .readH 4, .readH 5, .readH 6, .readH 7]

/-- The expansion of a pseudo-instruction (R81). -/
def expand : Pseudo → List Instr
  | .absorbB b => [.absorb 1 (b.setWidth 32 <<< 24)]
  | .absorbH h => [.absorb 2 (h.setWidth 32 <<< 16)]
  | .absorbW w => [.absorb 4 w]
  | .readDigest => readDigest
  | .hash m => .init :: (absorbAll m ++ .finalize :: readDigest)

/-- The text up to the `;` that starts a comment (R78). DESIGN CHOICE (log entry 15): a `;` inside the quoted string of `HASH "s"`,
of which R78 and R81 do not speak, is message text. -/
def stripComment (inString : Bool) : List Char → List Char
  | [] => []
  | c :: cs =>
    if c = ';' ∧ inString = false then []
    else c :: stripComment (if c = '"' then !inString else inString) cs

/-- Text without the blanks at either end. -/
def trim (cs : List Char) : List Char :=
  ((cs.dropWhile Char.isWhitespace).reverse.dropWhile Char.isWhitespace).reverse

/-- The operands between commas, without the blanks around them. -/
def operands : List Char → List (List Char)
  | [] => [[]]
  | c :: cs =>
    match operands cs with
    | [] => [[c]]
    | o :: os => if c = ',' then [] :: o :: os else (c :: o) :: os

/-- The value of one digit. -/
def digitValue (c : Char) : Option Nat :=
  if '0' ≤ c ∧ c ≤ '9' then some (c.toNat - '0'.toNat)
  else if 'a' ≤ c ∧ c ≤ 'f' then some (c.toNat - 'a'.toNat + 10)
  else if 'A' ≤ c ∧ c ≤ 'F' then some (c.toNat - 'A'.toNat + 10)
  else none

/-- A number from its digits, most significant first. -/
def digitsValue (base : Nat) (acc : Nat) : List Char → Option Nat
  | [] => some acc
  | c :: cs =>
    match digitValue c with
    | some d => if d < base then digitsValue base (base * acc + d) cs else none
    | none => none

/-- A decimal or `0x` hexadecimal number (R78); the digits' letter case and leading zeros are log entry 15. -/
def numberOf (cs : List Char) : Option Nat :=
  match trim cs with
  | [] => none
  | '0' :: 'x' :: c :: ds => digitsValue 16 0 (c :: ds)
  | ds => digitsValue 10 0 ds

/-- The bytes of a quoted ASCII string. Log entry 15. -/
def quotedBytes : List Char → Option (List Byte)
  | ['"'] => some []
  | c :: cs =>
    if c ≠ '"' ∧ c.toNat < 128 then (quotedBytes cs).map (BitVec.ofNat 8 c.toNat :: ·) else none
  | [] => none

/-- A line from its mnemonic and its operands (R78, R81); none where the assembler rejects the text. What it rejects beyond R78's
own list (U18) is log entry 15. -/
def parseFields (mnemonic rest : List Char) : Option AsmText :=
  let args := if trim rest = [] then [] else (operands rest).map numberOf
  if mnemonic = "NOP".toList ∧ args = [] then some (.line .nop)
  else if mnemonic = "INIT".toList ∧ args = [] then some (.line .init)
  else if mnemonic = "FINALIZE".toList ∧ args = [] then some (.line .finalize)
  else if mnemonic = "READ_DIGEST".toList ∧ args = [] then some (.pseudo .readDigest)
  else if mnemonic = "HASH".toList then
    match trim rest with
    | '"' :: cs => (quotedBytes cs).map fun m => .pseudo (.hash m)
    | _ => none
  else
    match args with
    | [some x, some y] => if mnemonic = "ABSORB".toList then some (.line (.absorb x y)) else none
    | [some x] =>
      if mnemonic = "READ_H".toList then some (.line (.readH x))
      else if mnemonic = ".cmd".toList then some (.line (.raw x))
      else if mnemonic = "ABSORB.B".toList ∧ x < 2 ^ 8 then some (.pseudo (.absorbB (BitVec.ofNat 8 x)))
      else if mnemonic = "ABSORB.H".toList ∧ x < 2 ^ 16 then some (.pseudo (.absorbH (BitVec.ofNat 16 x)))
      else if mnemonic = "ABSORB.W".toList ∧ x < 2 ^ 32 then some (.pseudo (.absorbW (BitVec.ofNat 32 x)))
      else none
    | _ => none

/-- One line of text: mnemonic first, operands separated by commas, `;` to the end of the line a comment (R78). DESIGN CHOICE (log
entry 15): a line that holds no command, empty or with nothing but blanks and a comment, is accepted; R78 does not speak of it. -/
def parseLine (text : List Char) : Option AsmText :=
  match trim (stripComment false text) with
  | [] => some .blank
  | cs => parseFields (cs.takeWhile fun c => !c.isWhitespace) (cs.dropWhile fun c => !c.isWhitespace)

/-- The words of one line of text (R78, R81); a line that holds no command has none (DESIGN CHOICE, log entry 15). -/
def assembleText (text : List Char) : Option (List Cmd64) :=
  match parseLine text with
  | none => none
  | some .blank => some []
  | some (.line l) => (assemble l).map fun w => [w]
  | some (.pseudo p) => some ((expand p).map encode)

/-- `n` hexadecimal digits of a number, most significant first, in lower case. -/
def hexDigits : (n : Nat) → Nat → List Char
  | 0, _ => []
  | n + 1, v => hexDigits n (v / 16) ++ ["0123456789abcdef".toList.getD (v % 16) '0']

/-- The text a disassembler prints for a line (R79): ABSORB's data as 8 hex digits, a raw word as 16. The digits' letter case, the blanks,
the `0x` before ABSORB's data and the decimal nb and idx are log entry 15. -/
def printLine : AsmLine → List Char
  | .nop => "NOP".toList
  | .init => "INIT".toList
  | .absorb nb data => "ABSORB ".toList ++ Nat.toDigits 10 nb ++ ", 0x".toList ++ hexDigits 8 data
  | .finalize => "FINALIZE".toList
  | .readH idx => "READ_H ".toList ++ Nat.toDigits 10 idx
  | .raw value => ".cmd 0x".toList ++ hexDigits 16 value

end Sys2Proof.Machine
end

