-- ==== Sys2Proof/Machine/Reference.lean ====
section
/-! DEFINITION. What the core computes, said without its engine: the fold over the blocks of a padded message (R172), the digest
(R173), the atomic form of a command (R200), the schedule store of `window16` after some rounds (R145), and the count of engine
steps (R201). The machine does not call these; claims compare it with them. -/

namespace Sys2Proof.Machine

/-- Block k of a byte stream: bytes 64k..64k+63 (R130). -/
def blockOf (stream : List Byte) (k : Nat) : Block := Vector.ofFn fun j => stream.getD (64 * k + j.val) 0

/-- H after the first `n` blocks of a stream, in order, from the IV (R172). -/
def foldBlocks (stream : List Byte) : Nat → Hash
  | 0 => IV
  | n + 1 => compress (foldBlocks stream n) (blockOf stream n)

/-- The digest state H_N of a message (R172). -/
def digestState (m : List Byte) : Hash := foldBlocks (pad m) ((pad m).length / 64)

/-- `digest(m)`: the eight words of the digest state, each serialised big-endian (R173). -/
def digest (m : List Byte) : List Byte := (digestState m).toList.flatMap be32Bytes

/-- Wbuf under `window16` when the first `n` rounds of a compression of `blk` are done (R145). -/
def windowAfter (blk : Block) : Nat → Vector Word32 16
  | 0 => nativeWords blk
  | n + 1 => windowUpdate n (windowAfter blk n)

/-- `Append(b)` of R200: a full block is compressed at once. -/
def appendAtomic (s : State) (b : Byte) : State :=
  if h : s.p.val = 63 then
    { s with M := s.M.set s.p.val b, p := 0, H := compress s.H (s.M.set s.p.val b) }
  else { s with M := s.M.set s.p.val b, p := ⟨s.p.val + 1, by omega⟩ }

/-- `Exec` of R200 on a command that decodes. -/
def execAtomic (i : Instr) (s : State) : State :=
  match i with
  | .nop => s
  | .init => startMessage s
  | .readH idx => respond s.H[idx] s
  | .absorb nb data =>
    if s.ERR then s
    else if s.DONE then raiseError .sequence s
    else (absorbBytes nb data).foldl appendAtomic { s with L := s.L + BitVec.ofNat 64 (8 * nb.toNat) }
  | .finalize =>
    if s.ERR then s
    else if s.DONE then raiseError .sequence s
    else { (padTail s.p s.L).foldl appendAtomic s with DONE := true }

/-- `Exec(s, w)` (R200). -/
def acceptAtomic (w : Cmd64) (s : State) : State :=
  match decode w with
  | .illegal c => raiseError c s
  | .command i => execAtomic i s

/-- Engine steps of one compression after the append that starts it: 64/U round steps and the accumulate step (R201). -/
def compressionSteps (c : Impl) : Nat := 64 / roundsPerStep c.rounds + 1

/-- Engine steps still to come in the compression in progress. -/
def phaseSteps (s : State) : Nat :=
  match s.phase with
  | .idle => 0
  | .accum => 1
  | .round t => (64 - t.val + roundsPerStep s.impl.rounds - 1) / roundsPerStep s.impl.rounds + 1

/-- Engine steps still to come before BUSY = 0: the compression in progress, one append for each byte of Q, a compression for each
block those bytes fill, and the finish step (R201). -/
def remainingSteps (s : State) : Nat :=
  phaseSteps s + s.Q.length + (s.p.val + s.Q.length) / 64 * compressionSteps s.impl + s.FIN.toNat

/-- The engine run until it has no step left. -/
def drained (s : State) : State := engineRun (remainingSteps s) s

end Sys2Proof.Machine
end

