-- ==== Sys2Proof/Safety.lean ====
section
/-! DEFINITION. The terms claims use: the events of a step, the invariants of the core, what it means for the core to represent a
message, and what no observation can tell apart. -/

namespace Sys2Proof.Machine

/-- `rst` is asserted in this step: the level the host drives, after the turn it takes (R240). -/
def resetting (s : State) : Bool :=
  match s.port.plan with
  | .driveRst level :: _ => level
  | _ => s.port.rst

/-- The host holds its levels in this step: no turn is planned, or the turn is `core`. -/
def coreTurn (s : State) : Bool :=
  match s.port.plan with
  | [] => true
  | .core :: _ => true
  | _ => false

/-- The command word accepted in this step, if one is (R41). -/
def accepted (s : State) : Option Cmd64 :=
  if coreTurn s && cmdReady s then s.port.offers.head? else none

/-- The state in which this step's event happens: the plan without the turn taken. -/
def turned (s : State) : State := withPlan s.port.plan.tail s

/-- The compression in progress, if any, is the one of the block in M from the H of R154: after t rounds the working variables and
the schedule store are those of the first t rounds (R145, R155, R160, R162). The clause `array`, W being the whole schedule in every
ROUND(t), is the model's choice (log entry 14). -/
structure Compressing (s : State) : Prop where
  work : ∀ t : Fin 64, s.phase = .round t →
    s.work = firstRounds (schedule s.M) (loadWorking s.H) t.val (by omega)
  workAtEnd : s.phase = .accum → s.work = firstRounds (schedule s.M) (loadWorking s.H) 64 (by omega)
  array : s.impl.sched = .array64 → ∀ t : Fin 64, s.phase = .round t → s.W = schedule s.M
  window : s.impl.sched = .window16 → ∀ t : Fin 64, s.phase = .round t → s.Wbuf = windowAfter s.M t.val

/-- What holds between the items of R20 in every state a run can reach. -/
structure CoreInv (s : State) : Prop where
  /-- Q holds at most 72 bytes (R28). -/
  queueBound : s.Q.length ≤ 72
  /-- ERRCODE holds a code exactly when ERR = 1 (R35, R210). -/
  errCode : s.ERR = false ↔ s.ERRCODE = .none
  /-- A response waits only in an idle core (R41, R186). -/
  responseQuiet : s.RSP ≠ none → busy s = false
  /-- "While BUSY = 1, DONE reads 0" (R37); after FINALIZE the fill count is 0 (R126). -/
  doneQuiet : s.DONE = true → busy s = false ∧ s.p = 0
  /-- While ERR = 1 no work is started, and none was left when the error was raised (R214, R215). -/
  errQuiet : s.ERR = true → busy s = false
  /-- The rest of a padding tail ends at a block boundary (R126). -/
  tailFits : s.FIN = true → (s.p.val + s.Q.length) % 64 = 0
  /-- A compression runs with the next block still empty (R127, R160). -/
  compressingEmpty : s.phase ≠ .idle → s.p = 0
  /-- "Phases ROUND(t) with t not a multiple of U never occur" (R158). -/
  roundAligned : ∀ t : Fin 64, s.phase = .round t → roundsPerStep s.impl.rounds ∣ t.val
  /-- L counts whole bytes (R124). -/
  lengthWhole : s.L.toNat % 8 = 0
  /-- Before the tail, p and Q follow the length (R26, R129). -/
  lengthFill : s.FIN = false → s.DONE = false → (s.p.val + s.Q.length) % 64 = s.L.toNat / 8 % 64
  /-- R160, R162; on W under array64, log entry 14. -/
  compressing : Compressing s

/-- The core represents the message m (R34, R129, R130, R172, R176): the bytes sent to the block buffer, followed by Q, are m, or
pad(m) once FINALIZE has been accepted; the last p of them stand in M; H is the fold over the blocks they fill, less the one in
compression. -/
structure Represents (m : List Byte) (s : State) : Prop where
  inv : CoreInv s
  length : s.L = BitVec.ofNat 64 (8 * m.length)
  stream : ∃ sent : List Byte,
    sent ++ s.Q = (if s.FIN || s.DONE then pad m else m) ∧
    s.p.val = sent.length % 64 ∧
    (∀ j : Fin 64, j.val < s.p.val → s.M[j] = (blockOf sent (sent.length / 64))[j]) ∧
    (s.phase = .idle → s.H = foldBlocks sent (sent.length / 64)) ∧
    (s.phase ≠ .idle → ∃ k, sent.length = 64 * (k + 1) ∧ s.H = foldBlocks sent k ∧ s.M = blockOf sent k)

/-- The message after this step, when m is the message before it: R183 and R240 begin a new one, an ABSORB that passes the gate of
R180 appends its bytes. -/
def messageAfter (s : State) (m : List Byte) : List Byte :=
  if resetting s then []
  else
    match (accepted s).map decode with
    | some (.command .init) => []
    | some (.command (.absorb nb data)) => if s.ERR || s.DONE then m else m ++ absorbBytes nb data
    | _ => m

/-- Two states that no observation can tell apart (R27, R43, R131): they agree on everything but the bytes of M at and above p, the
working variables and the schedule store outside a compression, the schedule store that is not in use, and the count of draws. During
a compression under array64 W is compared whole, because the model fills it at StartCompression (log entry 14). -/
structure SameObservable (s t : State) : Prop where
  H : s.H = t.H
  L : s.L = t.L
  p : s.p = t.p
  Q : s.Q = t.Q
  FIN : s.FIN = t.FIN
  phase : s.phase = t.phase
  DONE : s.DONE = t.DONE
  ERR : s.ERR = t.ERR
  ERRCODE : s.ERRCODE = t.ERRCODE
  RSP : s.RSP = t.RSP
  port : s.port = t.port
  impl : s.impl = t.impl
  M : ∀ j : Fin 64, j.val < s.p.val → s.M[j] = t.M[j]
  work : s.phase ≠ .idle → s.work = t.work
  W : s.phase ≠ .idle → s.impl.sched = .array64 → s.W = t.W
  Wbuf : s.phase ≠ .idle → s.impl.sched = .window16 → s.Wbuf = t.Wbuf

/-- The state without its scratch: the working variables, the schedule stores and the count of draws, which R200's atomic form does
not have. -/
def withoutScratch (s : State) : State :=
  { s with work := Working.atReset, W := Vector.replicate 64 0, Wbuf := Vector.replicate 16 0, draws := 0 }

/-- No command recorded, none in progress, and the message still empty: what reset and INIT leave (R175, R245). -/
structure Fresh (s : State) : Prop where
  H : s.H = IV
  L : s.L = 0
  p : s.p = 0
  Q : s.Q = []
  FIN : s.FIN = false
  phase : s.phase = .idle
  DONE : s.DONE = false
  ERR : s.ERR = false
  ERRCODE : s.ERRCODE = .none
  RSP : s.RSP = none

/-- An accepted command and then the engine until BUSY = 0 (R200). -/
def runCommand (i : Instr) (s : State) : State :=
  match exec i s with
  | .next t => drained t
  | .fault _ => s
  | .refused _ => s

/-- The bytes of a list of ABSORB operands, in order (R128). -/
def absorbedBytes (pieces : List (BitVec 3 × Word32)) : List Byte := pieces.flatMap fun x => absorbBytes x.1 x.2

/-- A list of ABSORBs, each run to its end. -/
def runAbsorbs (pieces : List (BitVec 3 × Word32)) (s : State) : State :=
  pieces.foldl (fun t x => runCommand (.absorb x.1 x.2) t) s

end Sys2Proof.Machine
end

