-- ==== Sys2Proof/Certificates/Slice0/Obligations.lean ====
section
/-! DEFINITION. The statements for the provers. Each docstring names the rule it formalises. -/

open Sys2Proof Sys2Proof.Machine

/-! ## A step and the command it accepts -/

/-- R180, R41: in a step in which the host holds its levels and `cmd_ready` = 1, the offered word, if it decodes, is consumed and
its command executed. -/
def Obligations.StepExecutesDecodedCommand : Prop :=
  ∀ (s : State) (w : Cmd64) (ws : List Cmd64) (i : Instr),
    coreTurn s = true → cmdReady s = true → s.port.offers = w :: ws → decode w = .command i →
      i.WellFormed ∧ step s = exec i (withOffers ws (turned s))

/-- R214: what raising an error does, for each of the four codes: an illegal word, or a gated command after DONE. -/
def Obligations.RaisedErrorRecordsFirstCode : Prop :=
  ∀ (s : State) (w : Cmd64) (ws : List Cmd64) (c : ErrCode),
    coreTurn s = true → cmdReady s = true → s.port.offers = w :: ws →
    (decode w = .illegal c ∨
      (c = .sequence ∧ s.ERR = false ∧ s.DONE = true ∧
        ∃ i : Instr, decode w = .command i ∧ (i = .finalize ∨ ∃ nb d, i = .absorb nb d))) →
      ∃ t, step s = .next t ∧ t.ERR = true ∧ t.ERRCODE = (if s.ERR then s.ERRCODE else c) ∧
        t.H = s.H ∧ t.L = s.L ∧ t.p = s.p ∧ t.M = s.M ∧ t.Q = s.Q ∧ t.FIN = s.FIN ∧ t.DONE = s.DONE ∧
        t.RSP = s.RSP ∧ t.port.taken = s.port.taken ∧ t.port.offers = ws ∧
        t.phase = s.phase ∧ t.work = s.work ∧ t.W = s.W ∧ t.Wbuf = s.Wbuf ∧ t.impl = s.impl

/-- R213, R217, R9. That every state, an idle or a stalled one included, answers a next state and that nothing stops is the model's
choice: log entries 11 and 13, DEDUCED (U16 leaves a stalled core no enabled step). The open parameters never change; and the record
of what the host has observed, the model's own (log entry 1), is only added to. -/
def Obligations.StepAlwaysAnswersNext : Prop :=
  ∀ s : State, ∃ t, step s = .next t ∧ t.impl = s.impl ∧
    s.port.taken <+: t.port.taken ∧ s.port.reads <+: t.port.reads

/-! ## Encoding -/

/-- R76, R79: the decoder reads every well-formed command back from its word, with every operand at every value. -/
def Obligations.DecodeOfEncodeIsIdentity : Prop :=
  ∀ i : Instr, i.WellFormed → decode (encode i) = .command i

/-- R76, R79, R74: a word that decodes gives a well-formed command whose word agrees with it in bits 31:0, and in every bit for
ABSORB; DATA is the only part that can be lost. -/
def Obligations.EncodeOfDecodeKeepsWord : Prop :=
  ∀ (w : Cmd64) (i : Instr), decode w = .command i →
    i.WellFormed ∧ (encode i).setWidth 32 = w.setWidth 32 ∧
      ((∃ nb d, i = .absorb nb d) → encode i = w)

/-- R77: the legal words are those whose low half is one of fifteen. -/
def Obligations.FifteenLegalLowHalves : Prop :=
  ∃ low : List (BitVec 32), low.length = 15 ∧ low.Nodup ∧
    low = [0x00, 0x01, 0x12, 0x22, 0x32, 0x42, 0x03, 0x04, 0x14, 0x24, 0x34, 0x44, 0x54, 0x64, 0x74] ∧
    ∀ w : Cmd64, (∃ i, decode w = .command i) ↔ w.setWidth 32 ∈ low

/-- R77, R210, R211: which words give which code, and that decoding gives no other. -/
def Obligations.IllegalCodesByPriority : Prop :=
  ∀ w : Cmd64,
    (decode w = .illegal .illegalOp ↔ 5 ≤ (opField w).toNat) ∧
    (decode w = .illegal .reserved ↔ (opField w).toNat < 5 ∧
      (rsvField w ≠ 0 ∨ ((opField w = 0 ∨ opField w = 1 ∨ opField w = 3) ∧ argField w ≠ 0))) ∧
    (decode w = .illegal .badNb ↔ opField w = 2 ∧ rsvField w = 0 ∧
      (argField w = 0 ∨ argField w = 5 ∨ argField w = 6 ∨ argField w = 7)) ∧
    decode w ≠ .illegal .none ∧ decode w ≠ .illegal .sequence

/-- R80, and the words of R211: one word of each command, and the illegal ones, read as the spec reads them. -/
def Obligations.SpecWordsDecode : Prop :=
  decode 0x0000000000000000 = .command .nop ∧
  decode 0x0000000000000001 = .command .init ∧
  decode 0x6162630000000032 = .command (.absorb 3 0x61626300) ∧
  decode 0x6162636400000042 = .command (.absorb 4 0x61626364) ∧
  decode 0x6100000000000012 = .command (.absorb 1 0x61000000) ∧
  decode 0x0000000000000003 = .command .finalize ∧
  decode 0x0000000000000004 = .command (.readH 0) ∧
  decode 0x0000000000000074 = .command (.readH 7) ∧
  decode 0x0000000000000005 = .illegal .illegalOp ∧
  decode 0x0000000000000080 = .illegal .reserved ∧
  decode 0x0000000000000002 = .illegal .badNb ∧
  decode 0x0000000000000289 = .illegal .illegalOp ∧
  decode 0x0000000000000172 = .illegal .reserved

/-- R74, U12: the bytes of DATA at positions j ≥ NB have no effect. -/
def Obligations.IgnoredDataBytesHaveNoEffect : Prop :=
  ∀ (nb : BitVec 3) (data data' : Word32) (s : State), NbLegal nb →
    (∀ i : Nat, 32 - 8 * nb.toNat ≤ i → data.getLsbD i = data'.getLsbD i) →
      exec (.absorb nb data) s = exec (.absorb nb data') s

/-- R79: disassembling and assembling again gives the word back, but for DATA of a legal word that ignores it. -/
def Obligations.AssembleOfDisassemble : Prop :=
  ∀ w : Cmd64,
    (∀ c, decode w = .illegal c → assemble (disassemble w) = some w) ∧
    (∀ nb d, decode w = .command (.absorb nb d) → assemble (disassemble w) = some w) ∧
    (∀ i, decode w = .command i → (∀ nb d, i ≠ .absorb nb d) →
      assemble (disassemble w) = some ((w.setWidth 32).setWidth 64))

/-! ## The commands -/

/-- R182: what NOP does, in every state, and which words with OP = 0 are NOP. -/
def Obligations.NopChangesNothing : Prop :=
  (∀ s : State, exec .nop s = .next s) ∧
  (∀ w : Cmd64, opField w = 0 →
    decode w = if argField w = 0 ∧ rsvField w = 0 then .command .nop else .illegal .reserved)

/-- R183: in every state, also while ERR = 1 or DONE = 1; M and everything not named keep their values. -/
def Obligations.InitStartsMessage : Prop :=
  ∀ s : State, ∃ t, exec .init s = .next t ∧
    (∀ i : Fin 8, t.H[i] = IV[i]) ∧ t.L = 0 ∧ t.p = 0 ∧ t.DONE = false ∧ t.ERR = false ∧ t.ERRCODE = .none ∧
    t.M = s.M ∧ t.Q = s.Q ∧ t.FIN = s.FIN ∧ t.phase = s.phase ∧ t.work = s.work ∧ t.W = s.W ∧ t.Wbuf = s.Wbuf ∧
    t.RSP = s.RSP ∧ t.port = s.port ∧ t.impl = s.impl

/-- R184, R124, R74: an ABSORB that passes the gate. -/
def Obligations.AbsorbLoadsBytes : Prop :=
  ∀ (nb : BitVec 3) (data : Word32) (s : State), NbLegal nb → s.ERR = false → s.DONE = false →
    ∃ t, exec (.absorb nb data) s = .next t ∧
      t.L.toNat = (s.L.toNat + 8 * nb.toNat) % 2 ^ 64 ∧
      t.Q.length = nb.toNat ∧
      (∀ j : Nat, j < nb.toNat → t.Q[j]? = some (data.extractLsb' (24 - 8 * j) 8)) ∧
      busy t = true ∧
      t.H = s.H ∧ t.p = s.p ∧ t.M = s.M ∧ t.FIN = s.FIN ∧ t.phase = s.phase ∧ t.work = s.work ∧ t.W = s.W ∧
      t.Wbuf = s.Wbuf ∧ t.DONE = s.DONE ∧ t.ERR = s.ERR ∧ t.ERRCODE = s.ERRCODE ∧ t.RSP = s.RSP ∧
      t.port = s.port ∧ t.impl = s.impl

/-- R185, R125: a FINALIZE that passes the gate. -/
def Obligations.FinalizeLoadsTail : Prop :=
  ∀ s : State, s.ERR = false → s.DONE = false →
    ∃ t, exec .finalize s = .next t ∧
      t.Q = [0x80] ++ List.replicate ((55 + (64 - s.p.val)) % 64) 0 ++ be64Bytes s.L ∧ t.FIN = true ∧
      busy t = true ∧
      t.L = s.L ∧ t.H = s.H ∧ t.p = s.p ∧ t.M = s.M ∧ t.phase = s.phase ∧ t.work = s.work ∧ t.W = s.W ∧
      t.Wbuf = s.Wbuf ∧ t.DONE = s.DONE ∧ t.ERR = s.ERR ∧ t.ERRCODE = s.ERRCODE ∧ t.RSP = s.RSP ∧
      t.port = s.port ∧ t.impl = s.impl

/-- R192, R186: in every state, also while ERR = 1 or DONE = 1. -/
def Obligations.ReadHRespondsWithWord : Prop :=
  ∀ (idx : Fin 8) (s : State), ∃ t, exec (.readH idx) s = .next t ∧ t.RSP = some s.H[idx] ∧
    t.H = s.H ∧ t.L = s.L ∧ t.p = s.p ∧ t.M = s.M ∧ t.Q = s.Q ∧ t.FIN = s.FIN ∧ t.phase = s.phase ∧
    t.work = s.work ∧ t.W = s.W ∧ t.Wbuf = s.Wbuf ∧ t.DONE = s.DONE ∧ t.ERR = s.ERR ∧ t.ERRCODE = s.ERRCODE ∧
    t.port = s.port ∧ t.impl = s.impl

/-- R211, R212, R215: the order of the refusals of ABSORB and FINALIZE: BAD_NB (on the operand as it stands, log entry 12), then
ERR = 1 ignores, then DONE = 1 is SEQUENCE. -/
def Obligations.GateOrder : Prop :=
  ∀ (nb : BitVec 3) (data : Word32) (s : State),
    (¬ NbLegal nb → exec (.absorb nb data) s =
      .next (if s.ERR then s else { s with ERR := true, ERRCODE := .badNb })) ∧
    (NbLegal nb → s.ERR = true → exec (.absorb nb data) s = .next s) ∧
    (s.ERR = true → exec .finalize s = .next s) ∧
    (NbLegal nb → s.ERR = false → s.DONE = true →
      exec (.absorb nb data) s = .next { s with ERR := true, ERRCODE := .sequence }) ∧
    (s.ERR = false → s.DONE = true →
      exec .finalize s = .next { s with ERR := true, ERRCODE := .sequence })

/-- R182 to R192, R23: whatever the command and the state, what an executed command leaves as it was: M, the engine's phase and
scratch, the ports and the parameters always; H, L and p but for INIT and (L) ABSORB; Q and FIN but for ABSORB and FINALIZE; RSP
but for READ_H; DONE but for INIT. -/
def Obligations.CommandFrame : Prop :=
  ∀ (i : Instr) (s t : State), exec i s = .next t →
    t.M = s.M ∧ t.phase = s.phase ∧ t.work = s.work ∧ t.W = s.W ∧ t.Wbuf = s.Wbuf ∧ t.port = s.port ∧
    t.impl = s.impl ∧ t.draws = s.draws ∧
    (i ≠ .init → t.H = s.H ∧ t.p = s.p ∧ t.DONE = s.DONE ∧
      ((∀ nb d, i ≠ .absorb nb d) → t.L = s.L) ∧
      ((∀ nb d, i ≠ .absorb nb d) → i ≠ .finalize → t.ERR = s.ERR ∧ t.ERRCODE = s.ERRCODE)) ∧
    ((∀ nb d, i ≠ .absorb nb d) → i ≠ .finalize → t.Q = s.Q) ∧
    (i ≠ .finalize → t.FIN = s.FIN) ∧
    ((∀ idx, i ≠ .readH idx) → t.RSP = s.RSP)

/-! ## Word functions and constants -/

/-- R100. -/
def Obligations.RotateMovesEveryBit : Prop :=
  (∀ (x : Word32) (n : Nat), 0 < n → n < 32 →
    rotr x n = ((x >>> n) ||| (x <<< (32 - n))) ∧
    ∀ i : Nat, i < 32 → (rotr x n).getLsbD i = x.getLsbD ((i + n) % 32)) ∧
  rotr 0x12345678 8 = 0x78123456

/-- R103, R104: Ch selects, Maj takes the majority, bit by bit; with the corner cases and examples of the rules. -/
def Obligations.ChooseAndMajority : Prop :=
  (∀ (e f g : Word32) (i : Nat), i < 32 →
    (ch e f g).getLsbD i = if e.getLsbD i then f.getLsbD i else g.getLsbD i) ∧
  (∀ (a b c : Word32) (i : Nat), i < 32 →
    ((maj a b c).getLsbD i = true ↔
      2 ≤ (a.getLsbD i).toNat + (b.getLsbD i).toNat + (c.getLsbD i).toNat)) ∧
  (∀ e f g : Word32, ch e f g = ((e &&& f) ^^^ (~~~e &&& g))) ∧
  (∀ a b c : Word32, maj a b c = ((a &&& b) ^^^ (a &&& c) ^^^ (b &&& c))) ∧
  (∀ f g : Word32, ch 0xFFFFFFFF f g = f ∧ ch 0 f g = g) ∧ (∀ e f : Word32, ch e f f = f) ∧
  (∀ x y : Word32, maj x x y = x ∧ maj x y x = x) ∧ (∀ y : Word32, maj 0 0xFFFFFFFF y = y) ∧
  ch 0x510e527f 0x9b05688c 0x1f83d9ab = 0x1f85c98c ∧
  maj 0x6a09e667 0xbb67ae85 0x3c6ef372 = 0x3a6fe667

/-- R105 to R108: the four sigma functions as the rules write them; every bit of them is the XOR of three bits (two, where the
shifted term has run out); and the corner cases and examples of the rules. -/
def Obligations.SigmaBits : Prop :=
  (∀ x : Word32, bigSigma0 x = (rotr x 2 ^^^ rotr x 13 ^^^ rotr x 22) ∧
    bigSigma1 x = (rotr x 6 ^^^ rotr x 11 ^^^ rotr x 25) ∧
    smallSigma0 x = (rotr x 7 ^^^ rotr x 18 ^^^ (x >>> 3)) ∧
    smallSigma1 x = (rotr x 17 ^^^ rotr x 19 ^^^ (x >>> 10))) ∧
  (∀ (x : Word32) (i : Nat), i < 32 →
    (bigSigma0 x).getLsbD i =
      (x.getLsbD ((i + 2) % 32) ^^ x.getLsbD ((i + 13) % 32) ^^ x.getLsbD ((i + 22) % 32)) ∧
    (bigSigma1 x).getLsbD i =
      (x.getLsbD ((i + 6) % 32) ^^ x.getLsbD ((i + 11) % 32) ^^ x.getLsbD ((i + 25) % 32)) ∧
    (smallSigma0 x).getLsbD i =
      (x.getLsbD ((i + 7) % 32) ^^ x.getLsbD ((i + 18) % 32) ^^ (decide (i < 29) && x.getLsbD (i + 3))) ∧
    (smallSigma1 x).getLsbD i =
      (x.getLsbD ((i + 17) % 32) ^^ x.getLsbD ((i + 19) % 32) ^^ (decide (i < 22) && x.getLsbD (i + 10)))) ∧
  (bigSigma0 0 = 0 ∧ bigSigma0 0xFFFFFFFF = 0xFFFFFFFF ∧ bigSigma0 1 = 0x40080400 ∧
    bigSigma0 0x6a09e667 = 0xce20b47e) ∧
  (bigSigma1 0 = 0 ∧ bigSigma1 0xFFFFFFFF = 0xFFFFFFFF ∧ bigSigma1 1 = 0x04200080 ∧
    bigSigma1 0x510e527f = 0x3587272b) ∧
  (smallSigma0 0 = 0 ∧ smallSigma0 0xFFFFFFFF = 0x1fffffff ∧ smallSigma0 1 = 0x02004000 ∧
    smallSigma0 0x61626380 = 0x940e90ef) ∧
  (smallSigma1 0 = 0 ∧ smallSigma1 0xFFFFFFFF = 0x003fffff ∧ smallSigma1 1 = 0x0000a000 ∧
    smallSigma1 0x61626380 = 0x7da86405)

/-- R110, R111: K[i] is the first 32 bits of the fractional part of the cube root of the i-th prime, IV[i] of the square root; all
64 entries of K are distinct. -/
def Obligations.ConstantsAreRootFractions : Prop :=
  ∃ primes : List Nat, primes = (List.range 312).filter Nat.Prime ∧ primes.length = 64 ∧
    (∀ i : Fin 64, ∃ r : Nat, r ^ 3 ≤ primes.getD i.val 0 * 2 ^ 96 ∧ primes.getD i.val 0 * 2 ^ 96 < (r + 1) ^ 3 ∧
      K[i].toNat = r % 2 ^ 32) ∧
    (∀ i : Fin 8, ∃ r : Nat, r ^ 2 ≤ primes.getD i.val 0 * 2 ^ 64 ∧ primes.getD i.val 0 * 2 ^ 64 < (r + 1) ^ 2 ∧
      IV[i].toNat = r % 2 ^ 32) ∧
    (∀ i j : Fin 64, K[i] = K[j] → i = j)

/-! ## Padder -/

/-- R126. -/
def Obligations.PadTailLength : Prop :=
  ∀ (p : Fin 64) (L : BitVec 64),
    (padTail p L).length = 9 + (55 + 64 - p.val) % 64 ∧
    (p.val ≤ 55 → (padTail p L).length = 64 - p.val ∧ p.val + (padTail p L).length = 64) ∧
    (56 ≤ p.val → (padTail p L).length = 128 - p.val ∧ p.val + (padTail p L).length = 128) ∧
    9 ≤ (padTail p L).length ∧ (padTail p L).length ≤ 72 ∧
    ((padTail p L).length = 72 ↔ p = 56) ∧ ((padTail p L).length = 9 ↔ p = 55)

/-- R122, R123: how many zero bytes `pad` appends, and the five properties of `pad(m)`. -/
def Obligations.PadShape : Prop :=
  ∀ m : List Byte,
    (∃ z : Nat, z < 64 ∧ (m.length + z) % 64 = 55 ∧
      pad m = m ++ [0x80] ++ List.replicate z 0 ++ be64Bytes (BitVec.ofNat 64 (8 * m.length)) ∧
      8 * (m.length + 1 + z) % 512 = 448 ∧ (pad m).length = m.length + 9 + z) ∧
    (pad m).length = 64 * ((m.length + 8) / 64 + 1) ∧
    m <+: pad m ∧
    (pad m)[m.length]? = some 0x80 ∧
    (m.length % 64 ≤ 55 → m.length / 64 + 1 = (pad m).length / 64) ∧
    (56 ≤ m.length % 64 → m.length / 64 + 2 = (pad m).length / 64 ∧
      ∀ i : Nat, (pad m).length - 64 ≤ i → i < (pad m).length - 8 → (pad m)[i]? = some 0) ∧
    pad [] = [0x80] ++ List.replicate 63 0

/-- R129, R125: the message followed by the padding tail for p and L is `pad(m)`. (StepKeepsMessage speaks of the machine.) -/
def Obligations.MessageThenTailIsPad : Prop :=
  ∀ (m : List Byte) (p : Fin 64), p.val = m.length % 64 →
    pad m = m ++ padTail p (BitVec.ofNat 64 (8 * m.length))

/-! ## Schedule, rounds, accumulator -/

/-- R140, R141. -/
def Obligations.ScheduleRecurrence : Prop :=
  ∀ blk : Block,
    (∀ i : Nat, (h : i < 16) →
      (schedule blk)[i] = be32 blk[4 * i] blk[4 * i + 1] blk[4 * i + 2] blk[4 * i + 3]) ∧
    (∀ i : Nat, 16 ≤ i → (h : i < 64) →
      (schedule blk)[i] = (schedule blk)[i - 16] + smallSigma0 (schedule blk)[i - 15] +
        (schedule blk)[i - 7] + smallSigma1 (schedule blk)[i - 2])

/-- R145: the circular store gives round t the word W[t], for every t. -/
def Obligations.WindowHoldsSchedule : Prop :=
  ∀ (blk : Block) (t : Nat) (h : t < 64), (windowAfter blk (t + 1))[t % 16] = (schedule blk)[t]

/-- R151, R153. -/
def Obligations.RoundComputesAAndE : Prop :=
  ∀ (t : Fin 64) (v : Working) (w : Word32),
    (shaRound t v w).b = v.a ∧ (shaRound t v w).c = v.b ∧ (shaRound t v w).d = v.c ∧
    (shaRound t v w).f = v.e ∧ (shaRound t v w).g = v.f ∧ (shaRound t v w).h = v.g ∧
    (shaRound t v w).e = v.d + (v.h + bigSigma1 v.e + ch v.e v.f v.g + K[t] + w) ∧
    (shaRound t v w).a =
      (v.h + bigSigma1 v.e + ch v.e v.f v.g + K[t] + w) + (bigSigma0 v.a + maj v.a v.b v.c)

/-- R155 (serial) and R158 (unrolled): the one round step in ROUND(t), with t a multiple of U (U = 1 under serial): rounds t to
t + U - 1, each on the result of the one before, then ROUND(t + U), or ACCUM after round 63. R145: under either store of the
schedule; that W holds the whole schedule under array64 is the model's choice, log entry 14. -/
def Obligations.RoundStepAdvances : Prop :=
  ∀ (s : State) (t : Fin 64) (u : Nat), s.phase = .round t → Compressing s → u = roundsPerStep s.impl.rounds →
    u ∣ t.val →
      ∃ h : t.val + u ≤ 64,
        (engineStep s).work = firstRounds (schedule s.M) (loadWorking s.H) (t.val + u) h ∧
        (engineStep s).phase = (if h' : t.val + u < 64 then .round ⟨t.val + u, h'⟩ else .accum) ∧
        (u = 1 → (engineStep s).work = shaRound t s.work (schedule s.M)[t]) ∧
        Compressing (engineStep s)

/-- R170: all eight words in the one step, and nothing else but the scratch and the phase. -/
def Obligations.AccumulateAddsAllWords : Prop :=
  ∀ s : State, s.phase = .accum →
    (engineStep s).H = #v[s.H[0] + s.work.a, s.H[1] + s.work.b, s.H[2] + s.work.c, s.H[3] + s.work.d,
      s.H[4] + s.work.e, s.H[5] + s.work.f, s.H[6] + s.work.g, s.H[7] + s.work.h] ∧
    (engineStep s).phase = .idle ∧
    withoutScratch (engineStep s) = withoutScratch { s with H := (engineStep s).H, phase := .idle }

/-- R171, R160, R162: one compression in the engine, from the append that fills the block to the accumulate step, for every value
of the open parameters: H becomes `Compress(H, M)` and nothing else changes; until then H, M, p and L stand still. -/
def Obligations.EngineCompressionIsCompress : Prop :=
  ∀ (s : State) (b : Byte) (q : List Byte), s.phase = .idle → s.Q = b :: q → s.p = 63 →
    withoutScratch (engineRun (1 + compressionSteps s.impl) s) =
      withoutScratch { s with Q := q, p := 0, M := s.M.set 63 b, H := compress s.H (s.M.set 63 b) } ∧
    ∀ k : Nat, 1 ≤ k → k ≤ compressionSteps s.impl →
      (engineRun k s).phase ≠ .idle ∧ (engineRun k s).H = s.H ∧ (engineRun k s).M = s.M.set 63 b ∧
      (engineRun k s).p = 0 ∧ (engineRun k s).L = s.L ∧ (engineRun k s).Q = q

/-! ## The engine -/

/-- R197, R127, R154: the append step, and the start of a compression when it fills the block. R145: the schedule is in step with
the rounds under either store; that W holds the whole schedule from ROUND(0) on under array64 (`Compressing`) is the model's choice,
log entry 14. -/
def Obligations.AppendStep : Prop :=
  ∀ (s : State) (b : Byte) (q : List Byte), s.phase = .idle → s.Q = b :: q →
    (engineStep s).Q = q ∧ (engineStep s).M = s.M.set s.p.val b ∧
    (s.p.val < 63 → (engineStep s).p.val = s.p.val + 1 ∧ (engineStep s).phase = .idle ∧
      (engineStep s).work = s.work ∧ (engineStep s).W = s.W ∧ (engineStep s).Wbuf = s.Wbuf) ∧
    (s.p.val = 63 → (engineStep s).p = 0 ∧ (engineStep s).phase = .round 0 ∧
      (engineStep s).work = loadWorking s.H ∧ Compressing (engineStep s)) ∧
    (engineStep s).H = s.H ∧ (engineStep s).L = s.L ∧ (engineStep s).FIN = s.FIN ∧
    (engineStep s).DONE = s.DONE ∧ (engineStep s).ERR = s.ERR ∧ (engineStep s).ERRCODE = s.ERRCODE ∧
    (engineStep s).RSP = s.RSP ∧ (engineStep s).port = s.port ∧ (engineStep s).impl = s.impl

/-- R198, R33: the finish step, after which BUSY = 0. -/
def Obligations.FinishStep : Prop :=
  ∀ s : State, s.phase = .idle → s.Q = [] → s.FIN = true →
    engineStep s = { s with DONE := true, FIN := false } ∧ busy (engineStep s) = false

/-- R195, R196, R199, R221, R202: a step with BUSY = 1 in which the host holds its levels, `rst` released, is the engine's; each
engine step brings the end one step nearer; with BUSY = 0 there is none to take. That the host's plan decides which steps are the
host's is log entry 2. -/
def Obligations.EngineStepsCountDown : Prop :=
  ∀ s : State,
    (coreTurn s = true → s.port.rst = false → busy s = true → step s = .next (engineStep (turned s))) ∧
    (busy s = true → remainingSteps (engineStep s) + 1 = remainingSteps s) ∧
    (busy s = false → remainingSteps s = 0 ∧ engineStep s = s)

/-- R201: how many engine steps ABSORB and FINALIZE take, for every value of the open parameters, and the greatest and least counts
under `serial`. -/
def Obligations.CommandStepCounts : Prop :=
  ∀ (s t : State) (u : Nat), quiescent s = true → s.ERR = false → s.DONE = false → u = roundsPerStep s.impl.rounds →
    (∀ (nb : BitVec 3) (data : Word32), NbLegal nb → exec (.absorb nb data) s = .next t →
      (∀ k : Nat, busy (engineRun k t) = true ↔
        k < nb.toNat + (if 64 ≤ s.p.val + nb.toNat then 64 / u + 1 else 0)) ∧
      (u = 1 → busy (engineRun 69 t) = false)) ∧
    (exec .finalize s = .next t →
      (∀ k : Nat, busy (engineRun k t) = true ↔
        k < (padTail s.p s.L).length + (if s.p.val ≤ 55 then 1 else 2) * (64 / u + 1) + 1) ∧
      (u = 1 → s.p = 55 → busy (engineRun 74 t) = true ∧ busy (engineRun 75 t) = false) ∧
      (u = 1 → s.p = 56 → busy (engineRun 202 t) = true) ∧
      (u = 1 → busy (engineRun 203 t) = false))

/-- R160: during ROUND(t) and ACCUM, at the level of steps: without reset, nothing writes M, L or p, nothing writes H before the
accumulate step, and no byte is appended; and no command is accepted while BUSY = 1. -/
def Obligations.CompressionHoldsState : Prop :=
  (∀ s t : State, s.phase ≠ .idle → resetting s = false → step s = .next t →
    t.M = s.M ∧ t.L = s.L ∧ t.p = s.p ∧ t.Q = s.Q ∧ (s.phase ≠ .accum → t.H = s.H)) ∧
  (∀ s : State, busy s = true → accepted s = none)

/-- R37, R44: no engine step writes L, ERR, ERRCODE or RSP, or acts on the ports; FIN and DONE change in the finish step only. -/
def Obligations.EngineFrame : Prop :=
  ∀ s : State,
    (engineStep s).L = s.L ∧ (engineStep s).ERR = s.ERR ∧ (engineStep s).ERRCODE = s.ERRCODE ∧
    (engineStep s).RSP = s.RSP ∧ (engineStep s).port = s.port ∧ (engineStep s).impl = s.impl ∧
    (s.phase ≠ .idle ∨ s.Q ≠ [] ∨ s.FIN = false →
      (engineStep s).FIN = s.FIN ∧ (engineStep s).DONE = s.DONE) ∧
    (s.phase ≠ .accum → (engineStep s).H = s.H)

/-! ## Reset -/

/-- R240, R241: a step in which `rst` is asserted, in any state, also while BUSY = 1 or with a response waiting, which is discarded:
the host does not get it (the record of the responses taken is the model's, log entry 1). -/
def Obligations.ResetStepFromAnyState : Prop :=
  ∀ s : State, resetting s = true → ∃ t, step s = .next t ∧
    (∀ i : Fin 8, t.H[i] = IV[i]) ∧ t.L = 0 ∧ t.p = 0 ∧ t.Q = [] ∧ t.FIN = false ∧ t.phase = .idle ∧
    t.DONE = false ∧ t.ERR = false ∧ t.ERRCODE = .none ∧ t.RSP = none ∧ t.port.taken = s.port.taken

/-- R242: while `rst` is asserted, and in the first step after it is released. -/
def Obligations.WhileResetIsAsserted : Prop :=
  (∀ s : State, s.port.rst = true → cmdReady s = false ∧ rspValid s = false ∧ statusWord s = 0) ∧
  (∀ s t : State, resetting s = true → step s = .next t → accepted s = none ∧ t.port.rst = true) ∧
  (∀ (s t r : State) (rest : List HostTurn), resetting s = true → step s = .next t →
    t.port.plan = .driveRst false :: rest → step t = .next r →
      cmdReady r = true ∧ Fresh r ∧ statusWord r = 0)

/-- R24: the state after reset, ready to absorb. -/
def Obligations.ResetStateReadyToAbsorb : Prop :=
  (∀ i : Fin 8, State.reset.H[i] = IV[i]) ∧ cmdReady State.reset = true ∧
  ∀ (nb : BitVec 3) (data : Word32), NbLegal nb →
    ∃ t, exec (.absorb nb data) State.reset = .next t ∧ t.Q = absorbBytes nb data

/-- R20, R33 to R36: the reset column of the table, in `State.reset`. -/
def Obligations.ResetStateValues : Prop :=
  State.reset.H = IV ∧ State.reset.L = 0 ∧ State.reset.p = 0 ∧ State.reset.Q = [] ∧ State.reset.FIN = false ∧
  State.reset.phase = .idle ∧ State.reset.DONE = false ∧ State.reset.ERR = false ∧
  State.reset.ERRCODE = .none ∧ State.reset.RSP = none ∧ busy State.reset = false ∧ statusWord State.reset = 0

/-- R245: the states after reset and after INIT, which no observation tells apart. -/
def Obligations.ResetAndInitLookAlike : Prop :=
  ∀ s t : State, quiescent s = true → exec .init s = .next t → SameObservable (resetCore s) t

/-! ## Ports and flags -/

/-- R33, R36: BUSY, quiescence, and every bit of the status word, in any state and at reset; and the error codes' numbers (R210). -/
def Obligations.StatusWordLayout : Prop :=
  (∀ s : State, (busy s = true ↔ s.phase ≠ .idle ∨ s.Q ≠ [] ∨ s.FIN = true) ∧
    (quiescent s = true ↔ busy s = false ∧ s.RSP = none)) ∧
  busy State.reset = false ∧ statusWord State.reset = 0 ∧
  (∀ s : State, s.port.rst = false →
    (statusWord s).getLsbD 0 = busy s ∧ (statusWord s).getLsbD 1 = s.DONE ∧ (statusWord s).getLsbD 2 = s.ERR ∧
    (statusWord s).getLsbD 3 = false ∧ (statusWord s).extractLsb' 4 3 = s.ERRCODE.bits ∧
    (∀ i : Nat, 7 ≤ i → (statusWord s).getLsbD i = false)) ∧
  ErrCode.none.bits = 0 ∧ ErrCode.illegalOp.bits = 1 ∧ ErrCode.reserved.bits = 2 ∧ ErrCode.badNb.bits = 3 ∧
  ErrCode.sequence.bits = 4

/-- R37, R57: a status read has no side effect, also while BUSY = 1. R242: one while `rst` is asserted reads 0, and its step is a
reset step (log entry 17). The host's turns and the record of reads are the model's, log entries 1 and 2. -/
def Obligations.StatusReadHasNoSideEffect : Prop :=
  ∀ (s : State) (rest : List HostTurn), s.port.plan = .readStatus :: rest →
    (s.port.rst = false →
      step s = .next { s with
        port := { s.port with plan := rest, reads := s.port.reads ++ [statusWord s] } }) ∧
    (s.port.rst = true → ∃ t, step s = .next t ∧ Fresh t ∧
      t.port = { s.port with plan := rest, reads := s.port.reads ++ [0] })

/-- R41: `cmd_ready`, and that an offered command is never lost: what the host holds out changes only by its own further offers, or
by the acceptance of the first, which needs `cmd_ready` = 1. -/
def Obligations.OfferedCommandIsHeld : Prop :=
  ∀ s t : State, step s = .next t →
    (cmdReady s = true ↔ busy s = false ∧ s.RSP = none ∧ s.port.rst = false) ∧
    (∀ w, accepted s = some w → cmdReady s = true ∧ s.port.offers = w :: t.port.offers) ∧
    (accepted s = none → t.port.offers = s.port.offers ∨
      ∃ w rest, s.port.plan = .offer w :: rest ∧ t.port.offers = s.port.offers ++ [w])

/-- R42: the host's take-response step. -/
def Obligations.ResponseIsTaken : Prop :=
  ∀ (s : State) (v : Word32), coreTurn s = true → busy s = false → s.RSP = some v → s.port.rst = false →
    s.port.rspReady = true →
      rspValid s = true ∧ rspWord s = v ∧
      ∃ t, step s = .next t ∧ t.RSP = none ∧ t.port.taken = s.port.taken ++ [v] ∧
        t = { s with RSP := none, port := { s.port with plan := s.port.plan.tail, taken := t.port.taken } }

/-- R253: a response the host does not take stays, and no command is accepted; with nothing planned the state does not move.
R228: a quiescent core with `rst` released and nothing offered holds its state. That a core with no event to take answers itself is
log entry 11, DEDUCED. -/
def Obligations.UntakenResponseStalls : Prop :=
  (∀ (s t : State) (v : Word32), s.RSP = some v → s.port.rspReady = false → resetting s = false →
    step s = .next t →
      t.RSP = some v ∧ accepted s = none ∧ t.port.taken = s.port.taken ∧
      (s.port.plan = [] → busy s = false → t = s)) ∧
  (∀ s : State, quiescent s = true → s.port.rst = false → s.port.offers = [] → coreTurn s = true →
    step s = .next (turned s) ∧ (s.port.plan = [] → step s = .next s))

/-- R203: a response comes only from an accepted READ_H, and is the word of H at its acceptance; and the host takes only what RSP
holds. R186: without reset no response is lost: it stays, or the host takes it (the record of it is the model's, log entry 1). -/
def Obligations.OnlyReadHResponds : Prop :=
  ∀ s t : State, step s = .next t →
    (∀ v, t.RSP = some v → s.RSP = some v ∨
      ∃ w idx, accepted s = some w ∧ decode w = .command (.readH idx) ∧ v = s.H[idx]) ∧
    (t.port.taken = s.port.taken ∨ ∃ v, s.RSP = some v ∧ t.RSP = none ∧ t.port.taken = s.port.taken ++ [v]) ∧
    (resetting s = false → ∀ v, s.RSP = some v → t.RSP = some v ∨ t.port.taken = s.port.taken ++ [v])

/-! ## Rules over every step -/

/-- R23: only INIT, the accumulate step and reset write H. -/
def Obligations.HashStateWriters : Prop :=
  ∀ s t : State, step s = .next t → t.H ≠ s.H →
    resetting s = true ∨ s.phase = .accum ∨ ∃ w, accepted s = some w ∧ decode w = .command .init

/-- R34, R212, R23: after DONE, H is immutable until INIT or reset, and DONE stays. -/
def Obligations.DigestIsImmutable : Prop :=
  ∀ s t : State, CoreInv s → s.DONE = true → step s = .next t → resetting s = false →
    (∀ w, accepted s = some w → decode w ≠ .command .init) → t.H = s.H ∧ t.DONE = true

/-- R35, R215, R218: once an error is recorded, only INIT and reset clear it; until then the code stays, no message byte is
absorbed, H keeps its value and DONE cannot become 1. -/
def Obligations.ErrorIsSticky : Prop :=
  ∀ s t : State, CoreInv s → s.ERR = true → step s = .next t → resetting s = false →
    (∀ w, accepted s = some w → decode w ≠ .command .init) →
      t.ERR = true ∧ t.ERRCODE = s.ERRCODE ∧ t.H = s.H ∧ t.L = s.L ∧ t.M = s.M ∧ t.p = s.p ∧ t.Q = s.Q ∧
      t.FIN = s.FIN ∧ t.phase = s.phase ∧ t.DONE = s.DONE

/-! ## Invariants -/

/-- One invariant, kept by every step from every state that meets it: Q (R28), the error record (R35, R215), a waiting response (R41,
R186), DONE (R37), the length and the fill count (R124, R26, R129), the tail (R126), the fill count and the round of a compression
(R127, R158, R160), its working variables and its circular store (R155, R162, R145). That W is the whole schedule in every ROUND(t)
under array64 is the model's choice, log entry 14. -/
def Obligations.StepKeepsInv : Prop :=
  ∀ s t : State, CoreInv s → step s = .next t → CoreInv t

/-- The state after reset meets the invariants and represents the empty message. -/
def Obligations.ResetMeetsInvariants : Prop := CoreInv State.reset ∧ Represents [] State.reset

/-- R129, R130, R172: every step keeps the core in agreement with the message absorbed since the last INIT or reset. `Represents`
includes the core invariant, whose clause on W under array64 is the model's choice, log entry 14. -/
def Obligations.StepKeepsMessage : Prop :=
  ∀ (s t : State) (m : List Byte), Represents m s → step s = .next t → Represents (messageAfter s m) t

/-- R34, R176: DONE = 1 means that H is the digest state of the message; before FINALIZE a quiescent core holds the midstate of its
full blocks. -/
def Obligations.DoneMeansDigest : Prop :=
  ∀ (s : State) (m : List Byte), Represents m s →
    (s.DONE = true → s.H = digestState m) ∧
    (s.DONE = false → busy s = false → s.H = foldBlocks m (m.length / 64) ∧ s.p.val = m.length % 64)

/-! ## Headline results -/

/-- R200: from a quiescent state, an accepted word and then the engine until BUSY = 0 leave what the atomic form leaves; and in
between BUSY reads 1, DONE reads 0, and ERR and ERRCODE read as at acceptance (R37). -/
def Obligations.AtomicFormIsReached : Prop :=
  ∀ (s : State) (w : Cmd64), quiescent s = true → ∃ t, accept w s = .next t ∧
    busy (drained t) = false ∧ withoutScratch (drained t) = withoutScratch (acceptAtomic w s) ∧
    ∀ k : Nat, k < remainingSteps t → busy (engineRun k t) = true ∧ (engineRun k t).DONE = false ∧
      (engineRun k t).ERR = s.ERR ∧ (engineRun k t).ERRCODE = s.ERRCODE

/-- R162, R145, R9: the open parameters change nothing that a command leaves. -/
def Obligations.ParametersAreNotObservable : Prop :=
  ∀ (s t t' : State) (w : Cmd64) (c : Impl), quiescent s = true →
    accept w s = .next t → accept w { s with impl := c } = .next t' →
      withoutScratch (drained t') = { withoutScratch (drained t) with impl := c }

/-- R27, R131, R43: two states that differ only in what the spec leaves unspecified step to two such states, so no run of the host
can tell them apart. That W is compared whole during a compression under array64 goes with log entry 14. -/
def Obligations.UnspecifiedContentsAreNotObservable : Prop :=
  ∀ s s' t t' : State, SameObservable s s' → step s = .next t → step s' = .next t' →
    SameObservable t t' ∧ statusWord t = statusWord t' ∧ cmdReady t = cmdReady t' ∧ rspValid t = rspValid t'

/-- R175: any split of a message into ABSORBs, then FINALIZE, from reset or from an accepted INIT. -/
def Obligations.DigestOfAnySplit : Prop :=
  ∀ (s t : State) (pieces : List (BitVec 3 × Word32)),
    (Fresh s ∨ ∃ r, quiescent r = true ∧ exec .init r = .next s) → (∀ x ∈ pieces, NbLegal x.1) →
    t = runCommand .finalize (runAbsorbs pieces s) →
      quiescent t = true ∧ t.DONE = true ∧ t.ERR = false ∧ t.H = digestState (absorbedBytes pieces) ∧
      ∀ idx : Fin 8, ∃ r, exec (.readH idx) t = .next r ∧ r.RSP = some (digestState (absorbedBytes pieces))[idx]

/-- R81, R173, R202, R203: the commands of `HASH "s"`, offered to any quiescent core by a host that takes its responses, plans
nothing else and has taken none yet, run to their end, and the responses taken, each serialised big-endian, are the digest of the
bytes. The offers, the plan and the record of the responses taken are the model's, log entries 1 and 2; so are the zeros in the
ignored DATA bytes of the last ABSORB, log entry 15. -/
def Obligations.HashCommandsYieldDigest : Prop :=
  ∀ (s : State) (m : List Byte), quiescent s = true → s.port.rst = false → s.port.rspReady = true →
    s.port.plan = [] → s.port.offers = (expand (.hash m)).map encode → s.port.taken = [] →
      ∃ (n : Nat) (t : State), core.run n s = .next t ∧ t.port.offers = [] ∧ quiescent t = true ∧
        t.port.taken.flatMap be32Bytes = digest m ∧ statusWord t = 2
end

