-- ==== Sys2Proof/Laws/State.lean ====
section
/-! SUPPORT. What each plain update of the state does to each field: one lemma per field per update, true by `rfl`. -/

namespace Sys2Proof.Machine

section respond
variable (v : Word32) (s : State)
@[simp] theorem respond_H : (respond v s).H = s.H := rfl
@[simp] theorem respond_L : (respond v s).L = s.L := rfl
@[simp] theorem respond_p : (respond v s).p = s.p := rfl
@[simp] theorem respond_M : (respond v s).M = s.M := rfl
@[simp] theorem respond_Q : (respond v s).Q = s.Q := rfl
@[simp] theorem respond_FIN : (respond v s).FIN = s.FIN := rfl
@[simp] theorem respond_phase : (respond v s).phase = s.phase := rfl
@[simp] theorem respond_work : (respond v s).work = s.work := rfl
@[simp] theorem respond_W : (respond v s).W = s.W := rfl
@[simp] theorem respond_Wbuf : (respond v s).Wbuf = s.Wbuf := rfl
@[simp] theorem respond_DONE : (respond v s).DONE = s.DONE := rfl
@[simp] theorem respond_ERR : (respond v s).ERR = s.ERR := rfl
@[simp] theorem respond_ERRCODE : (respond v s).ERRCODE = s.ERRCODE := rfl
@[simp] theorem respond_RSP : (respond v s).RSP = some v := rfl
@[simp] theorem respond_port : (respond v s).port = s.port := rfl
@[simp] theorem respond_impl : (respond v s).impl = s.impl := rfl
@[simp] theorem respond_draws : (respond v s).draws = s.draws := rfl
end respond

section startMessage
variable (s : State)
@[simp] theorem startMessage_H : (startMessage s).H = IV := rfl
@[simp] theorem startMessage_L : (startMessage s).L = 0 := rfl
@[simp] theorem startMessage_p : (startMessage s).p = 0 := rfl
@[simp] theorem startMessage_M : (startMessage s).M = s.M := rfl
@[simp] theorem startMessage_Q : (startMessage s).Q = s.Q := rfl
@[simp] theorem startMessage_FIN : (startMessage s).FIN = s.FIN := rfl
@[simp] theorem startMessage_phase : (startMessage s).phase = s.phase := rfl
@[simp] theorem startMessage_work : (startMessage s).work = s.work := rfl
@[simp] theorem startMessage_W : (startMessage s).W = s.W := rfl
@[simp] theorem startMessage_Wbuf : (startMessage s).Wbuf = s.Wbuf := rfl
@[simp] theorem startMessage_DONE : (startMessage s).DONE = false := rfl
@[simp] theorem startMessage_ERR : (startMessage s).ERR = false := rfl
@[simp] theorem startMessage_ERRCODE : (startMessage s).ERRCODE = .none := rfl
@[simp] theorem startMessage_RSP : (startMessage s).RSP = s.RSP := rfl
@[simp] theorem startMessage_port : (startMessage s).port = s.port := rfl
@[simp] theorem startMessage_impl : (startMessage s).impl = s.impl := rfl
@[simp] theorem startMessage_draws : (startMessage s).draws = s.draws := rfl
end startMessage

section loadMessage
variable (nb : BitVec 3) (d : Word32) (s : State)
@[simp] theorem loadMessage_H : (loadMessage nb d s).H = s.H := rfl
@[simp] theorem loadMessage_L : (loadMessage nb d s).L = s.L + BitVec.ofNat 64 (8 * nb.toNat) := rfl
@[simp] theorem loadMessage_p : (loadMessage nb d s).p = s.p := rfl
@[simp] theorem loadMessage_M : (loadMessage nb d s).M = s.M := rfl
@[simp] theorem loadMessage_Q : (loadMessage nb d s).Q = absorbBytes nb d := rfl
@[simp] theorem loadMessage_FIN : (loadMessage nb d s).FIN = s.FIN := rfl
@[simp] theorem loadMessage_phase : (loadMessage nb d s).phase = s.phase := rfl
@[simp] theorem loadMessage_work : (loadMessage nb d s).work = s.work := rfl
@[simp] theorem loadMessage_W : (loadMessage nb d s).W = s.W := rfl
@[simp] theorem loadMessage_Wbuf : (loadMessage nb d s).Wbuf = s.Wbuf := rfl
@[simp] theorem loadMessage_DONE : (loadMessage nb d s).DONE = s.DONE := rfl
@[simp] theorem loadMessage_ERR : (loadMessage nb d s).ERR = s.ERR := rfl
@[simp] theorem loadMessage_ERRCODE : (loadMessage nb d s).ERRCODE = s.ERRCODE := rfl
@[simp] theorem loadMessage_RSP : (loadMessage nb d s).RSP = s.RSP := rfl
@[simp] theorem loadMessage_port : (loadMessage nb d s).port = s.port := rfl
@[simp] theorem loadMessage_impl : (loadMessage nb d s).impl = s.impl := rfl
@[simp] theorem loadMessage_draws : (loadMessage nb d s).draws = s.draws := rfl
end loadMessage

section loadTail
variable (s : State)
@[simp] theorem loadTail_H : (loadTail s).H = s.H := rfl
@[simp] theorem loadTail_L : (loadTail s).L = s.L := rfl
@[simp] theorem loadTail_p : (loadTail s).p = s.p := rfl
@[simp] theorem loadTail_M : (loadTail s).M = s.M := rfl
@[simp] theorem loadTail_Q : (loadTail s).Q = padTail s.p s.L := rfl
@[simp] theorem loadTail_FIN : (loadTail s).FIN = true := rfl
@[simp] theorem loadTail_phase : (loadTail s).phase = s.phase := rfl
@[simp] theorem loadTail_work : (loadTail s).work = s.work := rfl
@[simp] theorem loadTail_W : (loadTail s).W = s.W := rfl
@[simp] theorem loadTail_Wbuf : (loadTail s).Wbuf = s.Wbuf := rfl
@[simp] theorem loadTail_DONE : (loadTail s).DONE = s.DONE := rfl
@[simp] theorem loadTail_ERR : (loadTail s).ERR = s.ERR := rfl
@[simp] theorem loadTail_ERRCODE : (loadTail s).ERRCODE = s.ERRCODE := rfl
@[simp] theorem loadTail_RSP : (loadTail s).RSP = s.RSP := rfl
@[simp] theorem loadTail_port : (loadTail s).port = s.port := rfl
@[simp] theorem loadTail_impl : (loadTail s).impl = s.impl := rfl
@[simp] theorem loadTail_draws : (loadTail s).draws = s.draws := rfl
end loadTail

section releaseScratch
variable (s : State)
@[simp] theorem releaseScratch_H : (releaseScratch s).H = s.H := rfl
@[simp] theorem releaseScratch_L : (releaseScratch s).L = s.L := rfl
@[simp] theorem releaseScratch_p : (releaseScratch s).p = s.p := rfl
@[simp] theorem releaseScratch_M : (releaseScratch s).M = s.M := rfl
@[simp] theorem releaseScratch_Q : (releaseScratch s).Q = s.Q := rfl
@[simp] theorem releaseScratch_FIN : (releaseScratch s).FIN = s.FIN := rfl
@[simp] theorem releaseScratch_phase : (releaseScratch s).phase = s.phase := rfl
@[simp] theorem releaseScratch_work : (releaseScratch s).work = drawnWorking s.draws := rfl
@[simp] theorem releaseScratch_W : (releaseScratch s).W = drawnW s.draws := rfl
@[simp] theorem releaseScratch_Wbuf : (releaseScratch s).Wbuf = drawnWbuf s.draws := rfl
@[simp] theorem releaseScratch_DONE : (releaseScratch s).DONE = s.DONE := rfl
@[simp] theorem releaseScratch_ERR : (releaseScratch s).ERR = s.ERR := rfl
@[simp] theorem releaseScratch_ERRCODE : (releaseScratch s).ERRCODE = s.ERRCODE := rfl
@[simp] theorem releaseScratch_RSP : (releaseScratch s).RSP = s.RSP := rfl
@[simp] theorem releaseScratch_port : (releaseScratch s).port = s.port := rfl
@[simp] theorem releaseScratch_impl : (releaseScratch s).impl = s.impl := rfl
@[simp] theorem releaseScratch_draws : (releaseScratch s).draws = s.draws + 1 := rfl
end releaseScratch

section resetCore
variable (s : State)
@[simp] theorem resetCore_H : (resetCore s).H = IV := rfl
@[simp] theorem resetCore_L : (resetCore s).L = 0 := rfl
@[simp] theorem resetCore_p : (resetCore s).p = 0 := rfl
@[simp] theorem resetCore_M : (resetCore s).M = drawnM s.draws := rfl
@[simp] theorem resetCore_Q : (resetCore s).Q = [] := rfl
@[simp] theorem resetCore_FIN : (resetCore s).FIN = false := rfl
@[simp] theorem resetCore_phase : (resetCore s).phase = .idle := rfl
@[simp] theorem resetCore_work : (resetCore s).work = drawnWorking s.draws := rfl
@[simp] theorem resetCore_W : (resetCore s).W = drawnW s.draws := rfl
@[simp] theorem resetCore_Wbuf : (resetCore s).Wbuf = drawnWbuf s.draws := rfl
@[simp] theorem resetCore_DONE : (resetCore s).DONE = false := rfl
@[simp] theorem resetCore_ERR : (resetCore s).ERR = false := rfl
@[simp] theorem resetCore_ERRCODE : (resetCore s).ERRCODE = .none := rfl
@[simp] theorem resetCore_RSP : (resetCore s).RSP = none := rfl
@[simp] theorem resetCore_port : (resetCore s).port = s.port := rfl
@[simp] theorem resetCore_impl : (resetCore s).impl = s.impl := rfl
@[simp] theorem resetCore_draws : (resetCore s).draws = s.draws + 1 := rfl
end resetCore

section accumulateStep
variable (s : State)
@[simp] theorem accumulateStep_H : (accumulateStep s).H = addWorking s.H s.work := rfl
@[simp] theorem accumulateStep_L : (accumulateStep s).L = s.L := rfl
@[simp] theorem accumulateStep_p : (accumulateStep s).p = s.p := rfl
@[simp] theorem accumulateStep_M : (accumulateStep s).M = s.M := rfl
@[simp] theorem accumulateStep_Q : (accumulateStep s).Q = s.Q := rfl
@[simp] theorem accumulateStep_FIN : (accumulateStep s).FIN = s.FIN := rfl
@[simp] theorem accumulateStep_phase : (accumulateStep s).phase = .idle := rfl
@[simp] theorem accumulateStep_work : (accumulateStep s).work = drawnWorking s.draws := rfl
@[simp] theorem accumulateStep_W : (accumulateStep s).W = drawnW s.draws := rfl
@[simp] theorem accumulateStep_Wbuf : (accumulateStep s).Wbuf = drawnWbuf s.draws := rfl
@[simp] theorem accumulateStep_DONE : (accumulateStep s).DONE = s.DONE := rfl
@[simp] theorem accumulateStep_ERR : (accumulateStep s).ERR = s.ERR := rfl
@[simp] theorem accumulateStep_ERRCODE : (accumulateStep s).ERRCODE = s.ERRCODE := rfl
@[simp] theorem accumulateStep_RSP : (accumulateStep s).RSP = s.RSP := rfl
@[simp] theorem accumulateStep_port : (accumulateStep s).port = s.port := rfl
@[simp] theorem accumulateStep_impl : (accumulateStep s).impl = s.impl := rfl
@[simp] theorem accumulateStep_draws : (accumulateStep s).draws = s.draws + 1 := rfl
end accumulateStep

section finishStep
variable (s : State)
@[simp] theorem finishStep_H : (finishStep s).H = s.H := rfl
@[simp] theorem finishStep_L : (finishStep s).L = s.L := rfl
@[simp] theorem finishStep_p : (finishStep s).p = s.p := rfl
@[simp] theorem finishStep_M : (finishStep s).M = s.M := rfl
@[simp] theorem finishStep_Q : (finishStep s).Q = s.Q := rfl
@[simp] theorem finishStep_FIN : (finishStep s).FIN = false := rfl
@[simp] theorem finishStep_phase : (finishStep s).phase = s.phase := rfl
@[simp] theorem finishStep_work : (finishStep s).work = s.work := rfl
@[simp] theorem finishStep_W : (finishStep s).W = s.W := rfl
@[simp] theorem finishStep_Wbuf : (finishStep s).Wbuf = s.Wbuf := rfl
@[simp] theorem finishStep_DONE : (finishStep s).DONE = true := rfl
@[simp] theorem finishStep_ERR : (finishStep s).ERR = s.ERR := rfl
@[simp] theorem finishStep_ERRCODE : (finishStep s).ERRCODE = s.ERRCODE := rfl
@[simp] theorem finishStep_RSP : (finishStep s).RSP = s.RSP := rfl
@[simp] theorem finishStep_port : (finishStep s).port = s.port := rfl
@[simp] theorem finishStep_impl : (finishStep s).impl = s.impl := rfl
@[simp] theorem finishStep_draws : (finishStep s).draws = s.draws := rfl
end finishStep

section withPort
variable (P : Port) (s : State)
@[simp] theorem withPort_H : (withPort P s).H = s.H := rfl
@[simp] theorem withPort_L : (withPort P s).L = s.L := rfl
@[simp] theorem withPort_p : (withPort P s).p = s.p := rfl
@[simp] theorem withPort_M : (withPort P s).M = s.M := rfl
@[simp] theorem withPort_Q : (withPort P s).Q = s.Q := rfl
@[simp] theorem withPort_FIN : (withPort P s).FIN = s.FIN := rfl
@[simp] theorem withPort_phase : (withPort P s).phase = s.phase := rfl
@[simp] theorem withPort_work : (withPort P s).work = s.work := rfl
@[simp] theorem withPort_W : (withPort P s).W = s.W := rfl
@[simp] theorem withPort_Wbuf : (withPort P s).Wbuf = s.Wbuf := rfl
@[simp] theorem withPort_DONE : (withPort P s).DONE = s.DONE := rfl
@[simp] theorem withPort_ERR : (withPort P s).ERR = s.ERR := rfl
@[simp] theorem withPort_ERRCODE : (withPort P s).ERRCODE = s.ERRCODE := rfl
@[simp] theorem withPort_RSP : (withPort P s).RSP = s.RSP := rfl
@[simp] theorem withPort_port : (withPort P s).port = P := rfl
@[simp] theorem withPort_impl : (withPort P s).impl = s.impl := rfl
@[simp] theorem withPort_draws : (withPort P s).draws = s.draws := rfl
end withPort

section withPlan
variable (l : List HostTurn) (s : State)
@[simp] theorem withPlan_H : (withPlan l s).H = s.H := rfl
@[simp] theorem withPlan_L : (withPlan l s).L = s.L := rfl
@[simp] theorem withPlan_p : (withPlan l s).p = s.p := rfl
@[simp] theorem withPlan_M : (withPlan l s).M = s.M := rfl
@[simp] theorem withPlan_Q : (withPlan l s).Q = s.Q := rfl
@[simp] theorem withPlan_FIN : (withPlan l s).FIN = s.FIN := rfl
@[simp] theorem withPlan_phase : (withPlan l s).phase = s.phase := rfl
@[simp] theorem withPlan_work : (withPlan l s).work = s.work := rfl
@[simp] theorem withPlan_W : (withPlan l s).W = s.W := rfl
@[simp] theorem withPlan_Wbuf : (withPlan l s).Wbuf = s.Wbuf := rfl
@[simp] theorem withPlan_DONE : (withPlan l s).DONE = s.DONE := rfl
@[simp] theorem withPlan_ERR : (withPlan l s).ERR = s.ERR := rfl
@[simp] theorem withPlan_ERRCODE : (withPlan l s).ERRCODE = s.ERRCODE := rfl
@[simp] theorem withPlan_RSP : (withPlan l s).RSP = s.RSP := rfl
@[simp] theorem withPlan_port : (withPlan l s).port = { s.port with plan := l } := rfl
@[simp] theorem withPlan_impl : (withPlan l s).impl = s.impl := rfl
@[simp] theorem withPlan_draws : (withPlan l s).draws = s.draws := rfl
end withPlan

section withOffers
variable (l : List Cmd64) (s : State)
@[simp] theorem withOffers_H : (withOffers l s).H = s.H := rfl
@[simp] theorem withOffers_L : (withOffers l s).L = s.L := rfl
@[simp] theorem withOffers_p : (withOffers l s).p = s.p := rfl
@[simp] theorem withOffers_M : (withOffers l s).M = s.M := rfl
@[simp] theorem withOffers_Q : (withOffers l s).Q = s.Q := rfl
@[simp] theorem withOffers_FIN : (withOffers l s).FIN = s.FIN := rfl
@[simp] theorem withOffers_phase : (withOffers l s).phase = s.phase := rfl
@[simp] theorem withOffers_work : (withOffers l s).work = s.work := rfl
@[simp] theorem withOffers_W : (withOffers l s).W = s.W := rfl
@[simp] theorem withOffers_Wbuf : (withOffers l s).Wbuf = s.Wbuf := rfl
@[simp] theorem withOffers_DONE : (withOffers l s).DONE = s.DONE := rfl
@[simp] theorem withOffers_ERR : (withOffers l s).ERR = s.ERR := rfl
@[simp] theorem withOffers_ERRCODE : (withOffers l s).ERRCODE = s.ERRCODE := rfl
@[simp] theorem withOffers_RSP : (withOffers l s).RSP = s.RSP := rfl
@[simp] theorem withOffers_port : (withOffers l s).port = { s.port with offers := l } := rfl
@[simp] theorem withOffers_impl : (withOffers l s).impl = s.impl := rfl
@[simp] theorem withOffers_draws : (withOffers l s).draws = s.draws := rfl
end withOffers

section takeResponse
variable (v : Word32) (s : State)
@[simp] theorem takeResponse_H : (takeResponse v s).H = s.H := rfl
@[simp] theorem takeResponse_L : (takeResponse v s).L = s.L := rfl
@[simp] theorem takeResponse_p : (takeResponse v s).p = s.p := rfl
@[simp] theorem takeResponse_M : (takeResponse v s).M = s.M := rfl
@[simp] theorem takeResponse_Q : (takeResponse v s).Q = s.Q := rfl
@[simp] theorem takeResponse_FIN : (takeResponse v s).FIN = s.FIN := rfl
@[simp] theorem takeResponse_phase : (takeResponse v s).phase = s.phase := rfl
@[simp] theorem takeResponse_work : (takeResponse v s).work = s.work := rfl
@[simp] theorem takeResponse_W : (takeResponse v s).W = s.W := rfl
@[simp] theorem takeResponse_Wbuf : (takeResponse v s).Wbuf = s.Wbuf := rfl
@[simp] theorem takeResponse_DONE : (takeResponse v s).DONE = s.DONE := rfl
@[simp] theorem takeResponse_ERR : (takeResponse v s).ERR = s.ERR := rfl
@[simp] theorem takeResponse_ERRCODE : (takeResponse v s).ERRCODE = s.ERRCODE := rfl
@[simp] theorem takeResponse_RSP : (takeResponse v s).RSP = none := rfl
@[simp] theorem takeResponse_port : (takeResponse v s).port = { s.port with taken := s.port.taken ++ [v] } := rfl
@[simp] theorem takeResponse_impl : (takeResponse v s).impl = s.impl := rfl
@[simp] theorem takeResponse_draws : (takeResponse v s).draws = s.draws := rfl
end takeResponse

section readStatus
variable (s : State)
@[simp] theorem readStatus_H : (readStatus s).H = s.H := rfl
@[simp] theorem readStatus_L : (readStatus s).L = s.L := rfl
@[simp] theorem readStatus_p : (readStatus s).p = s.p := rfl
@[simp] theorem readStatus_M : (readStatus s).M = s.M := rfl
@[simp] theorem readStatus_Q : (readStatus s).Q = s.Q := rfl
@[simp] theorem readStatus_FIN : (readStatus s).FIN = s.FIN := rfl
@[simp] theorem readStatus_phase : (readStatus s).phase = s.phase := rfl
@[simp] theorem readStatus_work : (readStatus s).work = s.work := rfl
@[simp] theorem readStatus_W : (readStatus s).W = s.W := rfl
@[simp] theorem readStatus_Wbuf : (readStatus s).Wbuf = s.Wbuf := rfl
@[simp] theorem readStatus_DONE : (readStatus s).DONE = s.DONE := rfl
@[simp] theorem readStatus_ERR : (readStatus s).ERR = s.ERR := rfl
@[simp] theorem readStatus_ERRCODE : (readStatus s).ERRCODE = s.ERRCODE := rfl
@[simp] theorem readStatus_RSP : (readStatus s).RSP = s.RSP := rfl
@[simp] theorem readStatus_port : (readStatus s).port = { s.port with reads := s.port.reads ++ [statusWord s] } := rfl
@[simp] theorem readStatus_impl : (readStatus s).impl = s.impl := rfl
@[simp] theorem readStatus_draws : (readStatus s).draws = s.draws := rfl
end readStatus

end Sys2Proof.Machine
end

