-- ==== Sys2Proof/Laws/Ops.lean ====
section
/-! SUPPORT. One spec lemma for each shared operation: everything it can do, so that later proofs cite it and unfold nothing. -/

namespace Sys2Proof.Machine

/-! ### Flags -/

theorem busy_eq_false_iff (s : State) : busy s = false ↔ s.phase = .idle ∧ s.Q = [] ∧ s.FIN = false := by
  simp [busy, and_assoc]

theorem busy_eq_true_iff (s : State) : busy s = true ↔ s.phase ≠ .idle ∨ s.Q ≠ [] ∨ s.FIN = true := by
  simp [busy, or_assoc]

theorem quiescent_iff (s : State) :
    quiescent s = true ↔ s.phase = .idle ∧ s.Q = [] ∧ s.FIN = false ∧ s.RSP = none := by
  simp [quiescent, busy_eq_false_iff, and_assoc]

theorem cmdReady_iff (s : State) :
    cmdReady s = true ↔ busy s = false ∧ s.RSP = none ∧ s.port.rst = false := by
  simp [cmdReady, quiescent, and_assoc]

@[simp] theorem busy_withPlan (l : List HostTurn) (s : State) : busy (withPlan l s) = busy s := rfl

@[simp] theorem busy_withOffers (l : List Cmd64) (s : State) : busy (withOffers l s) = busy s := rfl

@[simp] theorem statusBits_withPlan (l : List HostTurn) (s : State) : statusBits (withPlan l s) = statusBits s := rfl

theorem statusWord_of_rst {s : State} (h : s.port.rst = true) : statusWord s = 0 := by simp [statusWord, h]

/-! ### Operands -/

theorem nbLegal_iff (nb : BitVec 3) : nbLegal nb = true ↔ NbLegal nb := by
  revert nb; decide

theorem absorbBytes_length (nb : BitVec 3) (d : Word32) : (absorbBytes nb d).length = nb.toNat := by
  simp [absorbBytes]

/-- Message byte j of a word written as four bytes (R13, R74). -/
theorem dataByte_be32 (b0 b1 b2 b3 : Byte) :
    dataByte (be32 b0 b1 b2 b3) 0 = b0 ∧ dataByte (be32 b0 b1 b2 b3) 1 = b1 ∧
    dataByte (be32 b0 b1 b2 b3) 2 = b2 ∧ dataByte (be32 b0 b1 b2 b3) 3 = b3 := by
  refine ⟨?_, ?_, ?_, ?_⟩ <;>
    (apply BitVec.eq_of_getLsbD_eq
     intro i hi
     simp only [dataByte, be32, BitVec.getLsbD_extractLsb', BitVec.getLsbD_append, hi, decide_true, Bool.true_and]
     repeat' split
     all_goals first | omega | (congr 1; omega))

/-! ### The error record and the gate -/

theorem raiseError_of_err {s : State} (c : ErrCode) (h : s.ERR = true) : raiseError c s = s := by
  simp [raiseError, h]

theorem raiseError_of_no_err {s : State} (c : ErrCode) (h : s.ERR = false) :
    raiseError c s = { s with ERR := true, ERRCODE := c } := by
  simp [raiseError, h]

/-- Raising an error writes ERR and ERRCODE alone. -/
theorem raiseError_eq (c : ErrCode) (s : State) :
    raiseError c s = { s with ERR := true, ERRCODE := if s.ERR then s.ERRCODE else c } := by
  rcases s with ⟨H, L, p, M, Q, FIN, phase, work, W, Wbuf, DONE, ERR, ERRCODE, RSP, port, impl, draws⟩
  cases ERR <;> rfl

theorem gated_of_err {s : State} (f : State → State) (h : s.ERR = true) : gated f s = s := by simp [gated, h]

theorem gated_of_done {s : State} (f : State → State) (h : s.ERR = false) (hd : s.DONE = true) :
    gated f s = { s with ERR := true, ERRCODE := .sequence } := by
  simp [gated, h, hd, raiseError]

theorem gated_of_open {s : State} (f : State → State) (h : s.ERR = false) (hd : s.DONE = false) :
    gated f s = f s := by
  simp [gated, h, hd]

/-- What an ABSORB or FINALIZE can do at the gate: nothing, an error record, or its effect. -/
theorem gated_cases (f : State → State) (s : State) :
    (s.ERR = true ∧ gated f s = s) ∨
    (s.ERR = false ∧ s.DONE = true ∧ gated f s = { s with ERR := true, ERRCODE := .sequence }) ∨
    (s.ERR = false ∧ s.DONE = false ∧ gated f s = f s) := by
  rcases Bool.eq_false_or_eq_true s.ERR with he | he
  · exact .inl ⟨he, gated_of_err f he⟩
  · rcases Bool.eq_false_or_eq_true s.DONE with hd | hd
    · exact .inr (.inl ⟨he, hd, gated_of_done f he hd⟩)
    · exact .inr (.inr ⟨he, hd, gated_of_open f he hd⟩)

/-- A field that neither the error record nor the effect writes is unchanged by a gated command. -/
theorem gated_field {α : Type} (g : State → α) {f : State → State} {s : State}
    (he : g (raiseError .sequence s) = g s) (hf : g (f s) = g s) : g (gated f s) = g s := by
  unfold gated
  split
  · rfl
  · split
    · exact he
    · exact hf

/-! ### The commands -/

theorem exec_nop (s : State) : exec .nop s = .next s := rfl

theorem exec_init (s : State) : exec .init s = .next (startMessage s) := rfl

theorem exec_readH (idx : Fin 8) (s : State) : exec (.readH idx) s = .next (respond s.H[idx] s) := rfl

theorem exec_finalize (s : State) : exec .finalize s = .next (gated loadTail s) := rfl

theorem exec_absorb_legal {nb : BitVec 3} (d : Word32) (s : State) (h : NbLegal nb) :
    exec (.absorb nb d) s = .next (gated (loadMessage nb d) s) :=
  if_pos ((nbLegal_iff nb).2 h)

theorem exec_absorb_illegal {nb : BitVec 3} (d : Word32) (s : State) (h : ¬ NbLegal nb) :
    exec (.absorb nb d) s = .next (raiseError .badNb s) :=
  if_neg fun h' => h ((nbLegal_iff nb).1 h')

/-- Every command answers a next state. -/
theorem exec_next (i : Instr) (s : State) : ∃ t, exec i s = .next t := by
  cases i with
  | nop => exact ⟨_, rfl⟩
  | init => exact ⟨_, rfl⟩
  | absorb nb d =>
    by_cases h : NbLegal nb
    · exact ⟨_, exec_absorb_legal d s h⟩
    · exact ⟨_, exec_absorb_illegal d s h⟩
  | finalize => exact ⟨_, rfl⟩
  | readH idx => exact ⟨_, rfl⟩

/-! ### The block buffer and the start of a compression -/

section startCompression
variable (s : State)
@[simp] theorem startCompression_H : (startCompression s).H = s.H := by unfold startCompression; split <;> rfl
@[simp] theorem startCompression_L : (startCompression s).L = s.L := by unfold startCompression; split <;> rfl
@[simp] theorem startCompression_p : (startCompression s).p = s.p := by unfold startCompression; split <;> rfl
@[simp] theorem startCompression_M : (startCompression s).M = s.M := by unfold startCompression; split <;> rfl
@[simp] theorem startCompression_Q : (startCompression s).Q = s.Q := by unfold startCompression; split <;> rfl
@[simp] theorem startCompression_FIN : (startCompression s).FIN = s.FIN := by unfold startCompression; split <;> rfl
@[simp] theorem startCompression_phase : (startCompression s).phase = .round 0 := by
  unfold startCompression; split <;> rfl
@[simp] theorem startCompression_work : (startCompression s).work = loadWorking s.H := by
  unfold startCompression; split <;> rfl
@[simp] theorem startCompression_DONE : (startCompression s).DONE = s.DONE := by unfold startCompression; split <;> rfl
@[simp] theorem startCompression_ERR : (startCompression s).ERR = s.ERR := by unfold startCompression; split <;> rfl
@[simp] theorem startCompression_ERRCODE : (startCompression s).ERRCODE = s.ERRCODE := by
  unfold startCompression; split <;> rfl
@[simp] theorem startCompression_RSP : (startCompression s).RSP = s.RSP := by unfold startCompression; split <;> rfl
@[simp] theorem startCompression_port : (startCompression s).port = s.port := by unfold startCompression; split <;> rfl
@[simp] theorem startCompression_impl : (startCompression s).impl = s.impl := by unfold startCompression; split <;> rfl
@[simp] theorem startCompression_draws : (startCompression s).draws = s.draws := by
  unfold startCompression; split <;> rfl

theorem startCompression_W {s : State} (h : s.impl.sched = .array64) : (startCompression s).W = schedule s.M := by
  simp [startCompression, h]

theorem startCompression_Wbuf {s : State} (h : s.impl.sched = .window16) :
    (startCompression s).Wbuf = nativeWords s.M := by
  simp [startCompression, h]
end startCompression

/-- BufAppend below the last byte. -/
theorem bufAppend_of_lt (b : Byte) {s : State} (h : s.p.val < 63) :
    bufAppend b s = { s with M := s.M.set s.p.val b, p := ⟨s.p.val + 1, by omega⟩ } := by
  unfold bufAppend; rw [dif_neg (by omega)]

/-- BufAppend of the last byte starts the compression. -/
theorem bufAppend_of_last (b : Byte) {s : State} (h : s.p.val = 63) :
    bufAppend b s = startCompression { s with M := s.M.set s.p.val b, p := 0 } := by
  unfold bufAppend; rw [dif_pos h]

section bufAppend
variable (b : Byte) (s : State)
@[simp] theorem bufAppend_H : (bufAppend b s).H = s.H := by unfold bufAppend; split <;> simp
@[simp] theorem bufAppend_L : (bufAppend b s).L = s.L := by unfold bufAppend; split <;> simp
@[simp] theorem bufAppend_M : (bufAppend b s).M = s.M.set s.p.val b := by unfold bufAppend; split <;> simp
@[simp] theorem bufAppend_Q : (bufAppend b s).Q = s.Q := by unfold bufAppend; split <;> simp
@[simp] theorem bufAppend_FIN : (bufAppend b s).FIN = s.FIN := by unfold bufAppend; split <;> simp
@[simp] theorem bufAppend_DONE : (bufAppend b s).DONE = s.DONE := by unfold bufAppend; split <;> simp
@[simp] theorem bufAppend_ERR : (bufAppend b s).ERR = s.ERR := by unfold bufAppend; split <;> simp
@[simp] theorem bufAppend_ERRCODE : (bufAppend b s).ERRCODE = s.ERRCODE := by unfold bufAppend; split <;> simp
@[simp] theorem bufAppend_RSP : (bufAppend b s).RSP = s.RSP := by unfold bufAppend; split <;> simp
@[simp] theorem bufAppend_port : (bufAppend b s).port = s.port := by unfold bufAppend; split <;> simp
@[simp] theorem bufAppend_impl : (bufAppend b s).impl = s.impl := by unfold bufAppend; split <;> simp
end bufAppend

theorem resetCore_busy (s : State) : busy (resetCore s) = false := by simp [busy_eq_false_iff]

theorem heldInReset_of_rst {s : State} (h : s.port.rst = true) : heldInReset s = resetCore s := by
  simp [heldInReset, h]

theorem heldInReset_of_no_rst {s : State} (h : s.port.rst = false) : heldInReset s = s := by
  simp [heldInReset, h]

end Sys2Proof.Machine
end

