-- ==== Sys2Proof/Laws/Engine.lean ====
section
/-! SUPPORT. What each engine step can do. -/

namespace Sys2Proof.Machine

/-! ### Rounds -/

theorem roundsPerStep_pos (r : RoundImpl) : 0 < roundsPerStep r := by
  cases r with
  | serial => decide
  | unrolled u => cases u <;> decide

/-- U divides 64 for every admitted U. -/
theorem roundsPerStep_dvd (r : RoundImpl) : roundsPerStep r ∣ 64 := by
  cases r with
  | serial => decide
  | unrolled u => cases u <;> decide

/-- A round writes the working variables and, under `window16`, the circular store; nothing else. -/
theorem oneRound_eq (t : Fin 64) (s : State) :
    oneRound t s = { s with work := (oneRound t s).work, Wbuf := (oneRound t s).Wbuf } := by
  unfold oneRound; split <;> rfl

/-- Any number of rounds writes the working variables and, under `window16`, the circular store; nothing else. -/
theorem runRounds_eq (n t : Nat) (s : State) :
    runRounds n t s = { s with work := (runRounds n t s).work, Wbuf := (runRounds n t s).Wbuf } := by
  induction n generalizing t s with
  | zero => rfl
  | succ n ih =>
    unfold runRounds
    split
    · rw [ih, oneRound_eq]
    · rfl

theorem runRounds_impl (n t : Nat) (s : State) : (runRounds n t s).impl = s.impl := by
  rw [runRounds_eq]

/-- The round step writes the working variables, the circular store and the phase; nothing else. -/
theorem roundStep_eq (t : Fin 64) (s : State) :
    roundStep t s = { s with
      work := (roundStep t s).work, Wbuf := (roundStep t s).Wbuf,
      phase := phaseAfter t.val (roundsPerStep s.impl.rounds) } := by
  have h := runRounds_eq (roundsPerStep s.impl.rounds) t.val s
  unfold roundStep
  rw [h]

section roundStep
variable (t : Fin 64) (s : State)
@[simp] theorem roundStep_H : (roundStep t s).H = s.H := by rw [roundStep_eq]
@[simp] theorem roundStep_L : (roundStep t s).L = s.L := by rw [roundStep_eq]
@[simp] theorem roundStep_p : (roundStep t s).p = s.p := by rw [roundStep_eq]
@[simp] theorem roundStep_M : (roundStep t s).M = s.M := by rw [roundStep_eq]
@[simp] theorem roundStep_Q : (roundStep t s).Q = s.Q := by rw [roundStep_eq]
@[simp] theorem roundStep_FIN : (roundStep t s).FIN = s.FIN := by rw [roundStep_eq]
@[simp] theorem roundStep_phase : (roundStep t s).phase = phaseAfter t.val (roundsPerStep s.impl.rounds) := rfl
@[simp] theorem roundStep_W : (roundStep t s).W = s.W := by rw [roundStep_eq]
@[simp] theorem roundStep_DONE : (roundStep t s).DONE = s.DONE := by rw [roundStep_eq]
@[simp] theorem roundStep_ERR : (roundStep t s).ERR = s.ERR := by rw [roundStep_eq]
@[simp] theorem roundStep_ERRCODE : (roundStep t s).ERRCODE = s.ERRCODE := by rw [roundStep_eq]
@[simp] theorem roundStep_RSP : (roundStep t s).RSP = s.RSP := by rw [roundStep_eq]
@[simp] theorem roundStep_port : (roundStep t s).port = s.port := by rw [roundStep_eq]
@[simp] theorem roundStep_impl : (roundStep t s).impl = s.impl := by rw [roundStep_eq]
@[simp] theorem roundStep_draws : (roundStep t s).draws = s.draws := by rw [roundStep_eq]
end roundStep

/-! ### The enabled step (R196) -/

theorem engineStep_round {s : State} {t : Fin 64} (h : s.phase = .round t) : engineStep s = roundStep t s := by
  simp [engineStep, h]

theorem engineStep_accum {s : State} (h : s.phase = .accum) : engineStep s = accumulateStep s := by
  simp [engineStep, h]

theorem engineStep_append {s : State} {b : Byte} {q : List Byte} (h : s.phase = .idle) (hq : s.Q = b :: q) :
    engineStep s = bufAppend b { s with Q := q } := by
  simp [engineStep, h, hq]

theorem engineStep_finish {s : State} (h : s.phase = .idle) (hq : s.Q = []) (hf : s.FIN = true) :
    engineStep s = finishStep s := by
  simp [engineStep, h, hq, hf]

theorem engineStep_of_not_busy {s : State} (h : busy s = false) : engineStep s = s := by
  obtain ⟨h1, h2, h3⟩ := (busy_eq_false_iff s).1 h
  simp [engineStep, h1, h2, h3]

theorem phase_cases (s : State) : s.phase = .idle ∨ (∃ t, s.phase = .round t) ∨ s.phase = .accum := by
  cases s.phase with
  | idle => exact .inl rfl
  | round t => exact .inr (.inl ⟨t, rfl⟩)
  | accum => exact .inr (.inr rfl)

theorem queue_cases (s : State) : s.Q = [] ∨ ∃ b q, s.Q = b :: q := by
  cases s.Q with
  | nil => exact .inl rfl
  | cons b q => exact .inr ⟨b, q, rfl⟩

/-- In every state exactly one engine step is enabled, or none (R196). -/
theorem engineStep_cases (s : State) :
    (∃ t, s.phase = .round t ∧ engineStep s = roundStep t s) ∨
    (s.phase = .accum ∧ engineStep s = accumulateStep s) ∨
    (∃ b q, s.phase = .idle ∧ s.Q = b :: q ∧ engineStep s = bufAppend b { s with Q := q }) ∨
    (s.phase = .idle ∧ s.Q = [] ∧ s.FIN = true ∧ engineStep s = finishStep s) ∨
    (busy s = false ∧ engineStep s = s) := by
  rcases phase_cases s with hp | ⟨t, hp⟩ | hp
  · rcases queue_cases s with hq | ⟨b, q, hq⟩
    · rcases Bool.eq_false_or_eq_true s.FIN with hf | hf
      · exact .inr (.inr (.inr (.inl ⟨hp, hq, hf, engineStep_finish hp hq hf⟩)))
      · have hb : busy s = false := (busy_eq_false_iff s).2 ⟨hp, hq, hf⟩
        exact .inr (.inr (.inr (.inr ⟨hb, engineStep_of_not_busy hb⟩)))
    · exact .inr (.inr (.inl ⟨b, q, hp, hq, engineStep_append hp hq⟩))
  · exact .inl ⟨t, hp, engineStep_round hp⟩
  · exact .inr (.inl ⟨hp, engineStep_accum hp⟩)

theorem engineRun_succ (n : Nat) (s : State) : engineRun (n + 1) s = engineRun n (engineStep s) := rfl

theorem engineRun_add (m n : Nat) (s : State) : engineRun (m + n) s = engineRun n (engineRun m s) := by
  induction m generalizing s with
  | zero => simp [engineRun]
  | succ m ih => rw [Nat.succ_add, engineRun_succ, ih, engineRun_succ]

theorem engineRun_of_not_busy {s : State} (h : busy s = false) (n : Nat) : engineRun n s = s := by
  induction n with
  | zero => rfl
  | succ n ih => rw [engineRun_succ, engineStep_of_not_busy h, ih]

end Sys2Proof.Machine
end

