-- ==== Sys2Proof/Laws/Compression.lean ====
section
/-! SUPPORT. The schedule, the rounds and the compression in progress. -/

namespace Sys2Proof.Machine

/-! ### Schedule -/

theorem expanded_succ (blk : Block) (n : Nat) (h : n + 1 ≤ 48) :
    expanded blk (n + 1) h = (expanded blk n (by omega)).set (n + 16)
      (expandSum (expanded blk n (by omega))[n] (expanded blk n (by omega))[n + 1]
        (expanded blk n (by omega))[n + 9] (expanded blk n (by omega))[n + 14]) := rfl

/-- A word, once expanded, stays. -/
theorem expanded_stable (blk : Block) (i : Nat) (hi : i < 64) (n m : Nat) (hn : n ≤ 48) (hm : m ≤ 48)
    (hin : i < n + 16) (hnm : n ≤ m) :
    (expanded blk m hm)[i] = (expanded blk n hn)[i] := by
  induction m with
  | zero => obtain rfl : n = 0 := by omega
            rfl
  | succ m ih =>
    by_cases h : n = m + 1
    · subst h; rfl
    · rw [expanded_succ, Vector.getElem_set_ne _ _ (by omega), ih (by omega) (by omega)]

/-! ### Rounds -/

theorem firstRounds_succ (W : Vector Word32 64) (v : Working) (n : Nat) (h : n + 1 ≤ 64) :
    firstRounds W v (n+1) h = shaRound ⟨n, h⟩ (firstRounds W v n (by omega)) W[n] := rfl

theorem phaseAfter_round {t u : Nat} {t' : Fin 64} (h : phaseAfter t u = .round t') : t'.val = t + u ∧ t + u < 64 := by
  unfold phaseAfter at h
  split at h
  · cases h; exact ⟨rfl, ‹_›⟩
  · cases h

theorem phaseAfter_accum {t u : Nat} (h : phaseAfter t u = .accum) : 64 ≤ t + u := by
  unfold phaseAfter at h
  split at h
  · cases h
  · omega

theorem phaseAfter_ne_idle {t u : Nat} : phaseAfter t u ≠ .idle := by
  unfold phaseAfter; split <;> simp

/-- U rounds from a multiple of U never pass round 63 (R158). -/
theorem aligned_le {t : Fin 64} {r : RoundImpl} (h : roundsPerStep r ∣ t.val) : t.val + roundsPerStep r ≤ 64 := by
  obtain ⟨a, ha⟩ := h
  obtain ⟨b, hb⟩ := roundsPerStep_dvd r
  have hp := roundsPerStep_pos r
  have : a < b := by
    have := t.isLt
    rw [ha, hb] at this
    exact Nat.lt_of_mul_lt_mul_left this
  calc t.val + roundsPerStep r = roundsPerStep r * (a + 1) := by rw [ha]; ring
    _ ≤ roundsPerStep r * b := Nat.mul_le_mul_left _ this
    _ = 64 := hb.symm

/-! ### The compression in progress -/

/-- With the engine in IDLE no compression is in progress. -/
theorem compressing_of_idle {s : State} (h : s.phase = .idle) : Compressing s :=
  ⟨fun t ht => by simp [h] at ht, fun ht => by simp [h] at ht,
   fun _ t ht => by simp [h] at ht, fun _ t ht => by simp [h] at ht⟩

/-- StartCompression begins one (R154). -/
theorem startCompression_compressing (s : State) : Compressing (startCompression s) := by
  refine ⟨fun t ht => ?_, fun h => by simp at h, fun h t ht => ?_, fun h t ht => ?_⟩
  · simp at ht; subst ht; simp [firstRounds]
  · simp at h; simp [startCompression_W h]
  · simp at h ht; subst ht; simp [startCompression_Wbuf h, windowAfter]

/-! ### Counting steps -/

theorem roundsPerStep_cases (r : RoundImpl) :
    roundsPerStep r = 1 ∨ roundsPerStep r = 2 ∨ roundsPerStep r = 4 ∨ roundsPerStep r = 8 ∨
      roundsPerStep r = 16 ∨ roundsPerStep r = 32 ∨ roundsPerStep r = 64 := by
  cases r with
  | serial => simp [roundsPerStep]
  | unrolled u => cases u <;> simp [roundsPerStep, unrollFactor]

end Sys2Proof.Machine
end

