-- ==== Sys2Proof/Laws/Decode.lean ====
section
/-! SUPPORT. The fields of an encoded word, and what a word that decodes holds. -/

namespace Sys2Proof

/-- Every bit of an encoded word (R70, R79). -/
theorem enc_bit (op : BitVec 4) (arg : BitVec 3) (d : Word32) (i : Nat) :
    (enc op arg d).getLsbD i = if i < 4 then op.getLsbD i else if i < 7 then arg.getLsbD (i - 4)
      else if i < 32 then false else d.getLsbD (i - 32) := by
  unfold enc
  rw [BitVec.getLsbD_append, BitVec.getLsbD_append, BitVec.getLsbD_append]
  by_cases h1 : i < 4
  · rw [if_pos h1, if_pos h1]
  · rw [if_neg h1, if_neg h1]
    by_cases h2 : i < 7
    · rw [if_pos h2, if_pos (by omega)]
    · rw [if_neg h2, if_neg (by omega)]
      by_cases h3 : i < 32
      · rw [if_pos h3, if_pos (by omega)]; simp
      · rw [if_neg h3, if_neg (by omega)]; congr 1

@[simp] theorem opField_enc (op : BitVec 4) (arg : BitVec 3) (d : Word32) : opField (enc op arg d) = op := by
  apply BitVec.eq_of_getLsbD_eq; intro i hi
  rw [opField, BitVec.getLsbD_extractLsb', enc_bit]; simp [hi]

@[simp] theorem argField_enc (op : BitVec 4) (arg : BitVec 3) (d : Word32) : argField (enc op arg d) = arg := by
  apply BitVec.eq_of_getLsbD_eq; intro i hi
  rw [argField, BitVec.getLsbD_extractLsb', enc_bit, if_neg (by omega), if_pos (by omega)]; simp [hi]

@[simp] theorem rsvField_enc (op : BitVec 4) (arg : BitVec 3) (d : Word32) : rsvField (enc op arg d) = 0 := by
  apply BitVec.eq_of_getLsbD_eq; intro i hi
  rw [rsvField, BitVec.getLsbD_extractLsb', enc_bit, if_neg (by omega), if_neg (by omega), if_pos (by omega)]; simp

@[simp] theorem dataField_enc (op : BitVec 4) (arg : BitVec 3) (d : Word32) : dataField (enc op arg d) = d := by
  apply BitVec.eq_of_getLsbD_eq; intro i hi
  rw [dataField, BitVec.getLsbD_extractLsb', enc_bit, if_neg (by omega), if_neg (by omega), if_neg (by omega)]; simp [hi]

/-- A word with RSV = 0 is made of its three other fields. -/
theorem enc_fields (w : Cmd64) (h : rsvField w = 0) : enc (opField w) (argField w) (dataField w) = w := by
  apply BitVec.eq_of_getLsbD_eq; intro i hi
  have hr : ∀ j, j < 25 → w.getLsbD (7 + j) = false := by
    intro j hj
    have := congrArg (fun v => v.getLsbD j) h
    simpa [rsvField, hj] using this
  rw [enc_bit]
  simp only [opField, argField, dataField, BitVec.getLsbD_extractLsb']
  split
  · next h1 => simp [h1]
  · split
    · next h1 h2 => rw [show 4 + (i - 4) = i by omega]; simp; omega
    · split
      · next h1 h2 h3 => have := hr (i - 7) (by omega); rw [show 7 + (i - 7) = i by omega] at this; simp [this]
      · next h1 h2 h3 => rw [show 32 + (i - 32) = i by omega]; simp; omega

/-- What a word that decodes is known to hold. -/
theorem decode_command {w : Cmd64} {i : Instr} (h : decode w = .command i) :
    rsvField w = 0 ∧ i.WellFormed ∧ opField w = i.op ∧ argField w = i.arg ∧
      ((∃ nb d, i = .absorb nb d) → dataField w = i.data) := by
  unfold decode at h
  simp only at h
  split_ifs at h with h1 h2 h3 h4 h5 h6 h7 h8 <;> cases h
  · exact ⟨not_not.1 h2, rfl, h5, by by_contra hc; exact h3 ⟨.inl h5, hc⟩, by simp⟩
  · exact ⟨not_not.1 h2, rfl, h6, by by_contra hc; exact h3 ⟨.inr (.inl h6), hc⟩, by simp⟩
  · refine ⟨not_not.1 h2, ?_, h7, rfl, fun _ => rfl⟩
    simp only [Instr.WellFormed, Instr.wellFormed, decide_eq_true_eq]
    constructor
    · by_contra hc; exact h4 ⟨h7, .inl (BitVec.eq_of_toNat_eq (by simp; omega))⟩
    · by_contra hc; exact h4 ⟨h7, .inr (by omega)⟩
  · exact ⟨not_not.1 h2, rfl, h8, by by_contra hc; exact h3 ⟨.inr (.inr h8), hc⟩, by simp⟩
  · refine ⟨not_not.1 h2, rfl, ?_, rfl, by simp⟩
    show opField w = 4
    revert h1 h5 h6 h7 h8; clear h2 h3 h4; generalize opField w = o; revert o; decide

end Sys2Proof
end

