-- ==== Sys2Proof/Laws/Padder.lean ====
section
/-! SUPPORT. The padding functions without their loop. -/

namespace Sys2Proof.Machine

theorem be64Bytes_length (v : BitVec 64) : (be64Bytes v).length = 8 := rfl

/-- The loop of R120 appends the `z` bytes that bring the length to 56 modulo 64. -/
theorem appendZeros_eq (z fuel : Nat) (s : List Byte) (hf : z ≤ fuel) (hz : (s.length + z) % 64 = 56)
    (hz64 : z < 64) :
    appendZeros fuel s = s ++ List.replicate z 0 := by
  induction fuel generalizing s z with
  | zero => obtain rfl : z = 0 := by omega
            simp [appendZeros]
  | succ fuel ih =>
    unfold appendZeros
    split
    · next h => obtain rfl : z = 0 := by omega
                simp
    · next h =>
      obtain ⟨y, rfl⟩ : ∃ y, z = y + 1 := ⟨z - 1, by omega⟩
      rw [ih y (s ++ [0]) (by omega) (by simp; omega) (by omega)]
      simp [List.replicate_succ]

/-- `pad` without its loop. -/
theorem pad_eq (m : List Byte) :
    pad m = m ++ [0x80] ++ List.replicate ((119 - m.length % 64) % 64) 0 ++ be64Bytes (BitVec.ofNat 64 (8 * m.length)) := by
  unfold pad
  rw [appendZeros_eq ((119 - m.length % 64) % 64) 64 _ (by omega) (by simp; omega) (by omega)]

end Sys2Proof.Machine
end

