-- ==== Sys2Proof/Laws/PerInstr.lean ====
section
/-! SUPPORT. Statements made of each instruction as syntax, one lemma per constructor. -/

/-- The word of an instruction holds the instruction's own fields and a zero RSV field (R70, R72, R75, R79). -/
def Sys2Proof.Laws.EncodeFields.Statement (i : Sys2Proof.Instr) : Prop :=
  Sys2Proof.opField (Sys2Proof.encode i) = i.op ∧ Sys2Proof.argField (Sys2Proof.encode i) = i.arg ∧
  Sys2Proof.rsvField (Sys2Proof.encode i) = 0 ∧ Sys2Proof.dataField (Sys2Proof.encode i) = i.data

/-- What every constructor's lemma is an instance of. -/
theorem Sys2Proof.Laws.encode_fields (i : Sys2Proof.Instr) : Sys2Proof.Laws.EncodeFields.Statement i :=
  ⟨Sys2Proof.opField_enc _ _ _, Sys2Proof.argField_enc _ _ _, Sys2Proof.rsvField_enc _ _ _,
   Sys2Proof.dataField_enc _ _ _⟩

theorem Sys2Proof.Laws.EncodeFields.nop : Sys2Proof.Laws.EncodeFields.Statement .nop :=
  Sys2Proof.Laws.encode_fields _

theorem Sys2Proof.Laws.EncodeFields.init : Sys2Proof.Laws.EncodeFields.Statement .init :=
  Sys2Proof.Laws.encode_fields _

theorem Sys2Proof.Laws.EncodeFields.absorb (nb : BitVec 3) (data : Sys2Proof.Word32) :
    Sys2Proof.Laws.EncodeFields.Statement (.absorb nb data) :=
  Sys2Proof.Laws.encode_fields _

theorem Sys2Proof.Laws.EncodeFields.finalize : Sys2Proof.Laws.EncodeFields.Statement .finalize :=
  Sys2Proof.Laws.encode_fields _

theorem Sys2Proof.Laws.EncodeFields.readH (idx : Fin 8) :
    Sys2Proof.Laws.EncodeFields.Statement (.readH idx) :=
  Sys2Proof.Laws.encode_fields _
end

