-- ==== Sys2Proof/Laws/Step.lean ====
section
/-! SUPPORT. What one step can do: the inversion lemma that every rule over all steps is derived from. -/

namespace Sys2Proof.Machine

/-- A rounds step, an append and so on look at the core alone: whatever stands on the ports goes through unchanged. -/
theorem oneRound_port (t : Fin 64) (s : State) (P : Port) :
    oneRound t (withPort P s) = withPort P (oneRound t s) := by
  cases h : s.impl.sched <;> simp only [oneRound, withPort, h]

theorem runRounds_port (n t : Nat) (s : State) (P : Port) :
    runRounds n t (withPort P s) = withPort P (runRounds n t s) := by
  induction n generalizing t s with
  | zero => rfl
  | succ n ih =>
    unfold runRounds
    split
    · rw [oneRound_port, ih]
    · rfl

theorem roundStep_port_update (t : Fin 64) (s : State) (P : Port) :
    roundStep t (withPort P s) = withPort P (roundStep t s) := by
  unfold roundStep
  rw [runRounds_port]
  rfl

theorem startCompression_port_update (s : State) (P : Port) :
    startCompression (withPort P s) = withPort P (startCompression s) := by
  cases h : s.impl.sched <;> simp only [startCompression, withPort, h]

theorem bufAppend_port_update (b : Byte) (s : State) (P : Port) :
    bufAppend b (withPort P s) = withPort P (bufAppend b s) := by
  by_cases h : s.p.val = 63
  · rw [bufAppend_of_last b (s := s) h, bufAppend_of_last b (s := withPort P s) h,
      ← startCompression_port_update]
    rfl
  · rw [bufAppend_of_lt b (s := s) (by omega), bufAppend_of_lt b (s := withPort P s) (show s.p.val < 63 by omega)]
    rfl

/-- The engine does not look at the ports. -/
theorem engineStep_port_update (s : State) (P : Port) :
    engineStep (withPort P s) = withPort P (engineStep s) := by
  rcases engineStep_cases s with ⟨t, h, e⟩ | ⟨h, e⟩ | ⟨b, q, h, hq, e⟩ | ⟨h, hq, hf, e⟩ | ⟨hb, e⟩
  · rw [e, engineStep_round (s := withPort P s) h, roundStep_port_update]
  · rw [e, engineStep_accum (s := withPort P s) h]; rfl
  · rw [e, engineStep_append (s := withPort P s) h hq, ← bufAppend_port_update]
    rfl
  · rw [e, engineStep_finish (s := withPort P s) h hq hf]; rfl
  · rw [e, engineStep_of_not_busy (s := withPort P s) hb]

/-- No command acts on the ports. -/
theorem exec_port {i : Instr} {s t : State} (h : exec i s = .next t) : t.port = s.port := by
  cases i with
  | nop => cases h; rfl
  | init => cases h; rfl
  | absorb nb d =>
    by_cases hn : NbLegal nb
    · rw [exec_absorb_legal d s hn] at h; cases h
      exact gated_field State.port (by rw [raiseError_eq]) rfl
    · rw [exec_absorb_illegal d s hn] at h; cases h; rw [raiseError_eq]
  | finalize =>
    rw [exec_finalize] at h; cases h
    exact gated_field State.port (by rw [raiseError_eq]) rfl
  | readH idx => cases h; rfl

/-- Every accepted word answers a next state. -/
theorem accept_next (w : Cmd64) (s : State) : ∃ t, accept w s = .next t := by
  unfold accept
  split
  · exact ⟨_, rfl⟩
  · exact exec_next _ s

/-- What the core's own next event is, with `rst` released. -/
theorem coreStep_cases (s : State) (hr : s.port.rst = false) :
    (busy s = true ∧ coreStep s = .next (engineStep s)) ∨
    (∃ v, busy s = false ∧ s.RSP = some v ∧ s.port.rspReady = true ∧ coreStep s = .next (takeResponse v s)) ∨
    (∃ w ws, busy s = false ∧ s.RSP = none ∧ s.port.offers = w :: ws ∧ coreStep s = accept w (withOffers ws s)) ∨
    (busy s = false ∧ ((∃ v, s.RSP = some v ∧ s.port.rspReady = false) ∨ (s.RSP = none ∧ s.port.offers = [])) ∧
      coreStep s = .next s) := by
  rcases Bool.eq_false_or_eq_true (busy s) with hb | hb
  · exact .inl ⟨hb, by simp [coreStep, hr, hb]⟩
  · right
    cases hv : s.RSP with
    | some v =>
      rcases Bool.eq_false_or_eq_true s.port.rspReady with hy | hy
      · exact .inl ⟨v, hb, rfl, hy, by simp [coreStep, hr, hb, hv, hy]⟩
      · exact .inr (.inr ⟨hb, .inl ⟨v, rfl, hy⟩, by simp [coreStep, hr, hb, hv, hy]⟩)
    | none =>
      cases ho : s.port.offers with
      | cons w ws => exact .inr (.inl ⟨w, ws, hb, rfl, rfl, by simp [coreStep, hr, hb, hv, ho]⟩)
      | nil => exact .inr (.inr ⟨hb, .inr ⟨rfl, rfl⟩, by simp [coreStep, hr, hb, hv, ho]⟩)

/-- What a step from `s` can do, and with what it is known to have done. -/
inductive StepEvent (s : State) : State → Prop where
  /-- `rst` is asserted: the core is reset. -/
  | reset (P : Port) (hr : resetting s = true) (ha : accepted s = none) (hrst : P.rst = true)
      (htaken : P.taken = s.port.taken) (hreads : s.port.reads <+: P.reads) (hplan : P.plan = s.port.plan.tail)
      (hoffers : P.offers = s.port.offers ∨
        ∃ w rest, s.port.plan = .offer w :: rest ∧ P.offers = s.port.offers ++ [w]) :
      StepEvent s (resetCore (withPort P s))
  /-- The host takes a turn of its own, which changes the ports alone. -/
  | hostTurn (P : Port) (hr : resetting s = false) (ha : accepted s = none) (hc : coreTurn s = false)
      (hrst : P.rst = false) (htaken : P.taken = s.port.taken) (hreads : s.port.reads <+: P.reads)
      (hoffers : P.offers = s.port.offers ∨
        ∃ w rest, s.port.plan = .offer w :: rest ∧ P.offers = s.port.offers ++ [w]) :
      StepEvent s (withPort P s)
  /-- The engine moves. -/
  | engine (hr : resetting s = false) (ha : accepted s = none) (hc : coreTurn s = true) (hb : busy s = true) :
      StepEvent s (withPlan s.port.plan.tail (engineStep s))
  /-- The host takes the response. -/
  | take (v : Word32) (hr : resetting s = false) (ha : accepted s = none) (hc : coreTurn s = true)
      (hb : busy s = false) (hy : s.port.rspReady = true) (hv : s.RSP = some v) :
      StepEvent s (takeResponse v (turned s))
  /-- A command is accepted. -/
  | accept {t : State} (w : Cmd64) (ws : List Cmd64) (hr : resetting s = false) (hc : coreTurn s = true)
      (hb : busy s = false) (hv : s.RSP = none) (hrst : s.port.rst = false) (ha : accepted s = some w)
      (ho : s.port.offers = w :: ws) (h : accept w (withOffers ws (turned s)) = .next t) :
      StepEvent s t
  /-- Nothing can happen. -/
  | still (hr : resetting s = false) (ha : accepted s = none) (hc : coreTurn s = true) (hb : busy s = false)
      (h : s.port.rspReady = false ∨ s.RSP = none) :
      StepEvent s (turned s)

theorem accepted_of_rst {s : State} (h : s.port.rst = true) : accepted s = none := by
  simp [accepted, cmdReady, h]

theorem accepted_of_busy {s : State} (h : busy s = true) : accepted s = none := by
  simp [accepted, cmdReady, quiescent, h]

theorem accepted_of_response {s : State} {v : Word32} (h : s.RSP = some v) : accepted s = none := by
  simp [accepted, cmdReady, quiescent, h]

theorem accepted_of_not_core {s : State} (h : coreTurn s = false) : accepted s = none := by
  simp [accepted, h]

/-- A step in which the host holds its levels. -/
theorem step_of_core {s : State} (hc : coreTurn s = true) :
    step s = coreStep (turned s) ∧ resetting s = s.port.rst := by
  rcases s with ⟨H, L, p, M, Q, FIN, phase, work, W, Wbuf, DONE, ERR, ERRCODE, RSP,
    ⟨rst, offers, rspReady, plan, taken, reads⟩, impl, draws⟩
  cases plan with
  | nil => exact ⟨rfl, rfl⟩
  | cons turn rest =>
    cases turn with
    | core => exact ⟨rfl, rfl⟩
    | _ => cases hc

/-- The inversion lemma of `step`. -/
theorem step_event {s t : State} (h : step s = .next t) : StepEvent s t := by
  rcases Bool.eq_false_or_eq_true (coreTurn s) with hc | hc
  · obtain ⟨hs, hres⟩ := step_of_core hc
    rw [hs] at h
    rcases Bool.eq_false_or_eq_true s.port.rst with hr | hr
    · have hr' : (turned s).port.rst = true := hr
      simp only [coreStep, hr', if_true] at h
      cases h
      exact .reset (turned s).port (hres.trans hr) (accepted_of_rst hr) hr rfl List.prefix_rfl rfl (.inl rfl)
    · have hr0 := hres.trans hr
      rcases coreStep_cases (turned s) hr with ⟨hb, e⟩ | ⟨v, hb, hv, hy, e⟩ | ⟨w, ws, hb, hv, ho, e⟩ |
          ⟨hb, hst, e⟩
      · rw [e] at h; cases h
        rw [show turned s = withPort (turned s).port s from rfl, engineStep_port_update]
        have hport : (engineStep s).port = s.port := by
          have := congrArg State.port (engineStep_port_update s s.port)
          exact this
        have : withPort (turned s).port (engineStep s) = withPlan s.port.plan.tail (engineStep s) := by
          simp only [withPort, withPlan, turned, hport]
        rw [this]
        exact .engine hr0 (accepted_of_busy hb) hc hb
      · rw [e] at h; cases h
        exact .take v hr0 (accepted_of_response hv) hc hb hy hv
      · rw [e] at h
        refine .accept w ws hr0 hc hb hv hr ?_ ho h
        have hb' : busy s = false := hb
        have hv' : s.RSP = none := hv
        have ho' : s.port.offers = w :: ws := ho
        simp [accepted, hc, cmdReady, quiescent, hb', hv', hr, ho']
      · rw [e] at h; cases h
        have hb' : busy s = false := hb
        refine .still hr0 ?_ hc hb ?_
        · rcases hst with ⟨v, hv, _⟩ | ⟨_, ho⟩
          · exact accepted_of_response (s := s) hv
          · have ho' : s.port.offers = [] := ho
            simp [accepted, ho']
        · rcases hst with ⟨v, _, hy⟩ | ⟨hv, _⟩
          · exact .inl hy
          · exact .inr hv
  · have ha := accepted_of_not_core hc
    rcases s with ⟨H, L, p, M, Q, FIN, phase, work, W, Wbuf, DONE, ERR, ERRCODE, RSP,
      ⟨rst, offers, rspReady, plan, taken, reads⟩, impl, draws⟩
    cases plan with
    | nil => cases hc
    | cons turn rest =>
      cases turn with
      | core => cases hc
      | readStatus =>
        cases h
        cases rst with
        | true => exact .reset _ rfl ha rfl rfl (List.prefix_append _ _) rfl (.inl rfl)
        | false => exact .hostTurn _ rfl ha hc rfl rfl (List.prefix_append _ _) (.inl rfl)
      | driveRst level =>
        cases h
        cases level with
        | true => exact .reset _ rfl ha rfl rfl List.prefix_rfl rfl (.inl rfl)
        | false => exact .hostTurn _ rfl ha hc rfl rfl List.prefix_rfl (.inl rfl)
      | driveRspReady level =>
        cases h
        cases rst with
        | true => exact .reset _ rfl ha rfl rfl List.prefix_rfl rfl (.inl rfl)
        | false => exact .hostTurn _ rfl ha hc rfl rfl List.prefix_rfl (.inl rfl)
      | offer w =>
        cases h
        cases rst with
        | true => exact .reset _ rfl ha rfl rfl List.prefix_rfl rfl (.inr ⟨w, rest, rfl, rfl⟩)
        | false => exact .hostTurn _ rfl ha hc rfl rfl List.prefix_rfl (.inr ⟨w, rest, rfl, rfl⟩)

end Sys2Proof.Machine
end

