-- ==== Sys2Proof/Laws/Safety.lean ====
section
/-! SUPPORT. The terms of `Safety.lean` under the operations of the machine, and runs of the core. -/

namespace Sys2Proof.Machine

/-- Two states are the same without their scratch exactly if they agree on every other field. -/
theorem withoutScratch_eq_iff (s t : State) :
    withoutScratch s = withoutScratch t ↔
      s.H = t.H ∧ s.L = t.L ∧ s.p = t.p ∧ s.M = t.M ∧ s.Q = t.Q ∧ s.FIN = t.FIN ∧ s.phase = t.phase ∧
      s.DONE = t.DONE ∧ s.ERR = t.ERR ∧ s.ERRCODE = t.ERRCODE ∧ s.RSP = t.RSP ∧ s.port = t.port ∧ s.impl = t.impl := by
  rcases s with ⟨H, L, p, M, Q, FIN, phase, work, W, Wbuf, DONE, ERR, ERRCODE, RSP, port, impl, draws⟩
  rcases t with ⟨H', L', p', M', Q', FIN', phase', work', W', Wbuf', DONE', ERR', ERRCODE', RSP', port', impl', draws'⟩
  simp only [withoutScratch, State.mk.injEq, and_true, true_and]

/-- A reset core is fresh (R240). -/
theorem fresh_resetCore (s : State) : Fresh (resetCore s) := ⟨rfl, rfl, rfl, rfl, rfl, rfl, rfl, rfl, rfl, rfl⟩

/-- INIT accepted by a quiescent core leaves a fresh core (R183). -/
theorem fresh_startMessage {s : State} (h : quiescent s = true) : Fresh (startMessage s) := by
  obtain ⟨hp, hq, hf, hr⟩ := (quiescent_iff s).1 h
  exact ⟨rfl, rfl, rfl, hq, hf, hp, rfl, rfl, rfl, hr⟩

/-- The compression in progress does not depend on the ports. -/
theorem compressing_withPort {s : State} (P : Port) (h : Compressing s) : Compressing (withPort P s) :=
  ⟨h.work, h.workAtEnd, h.array, h.window⟩

/-- The invariant does not depend on the ports. -/
theorem coreInv_withPort {s : State} (P : Port) (h : CoreInv s) : CoreInv (withPort P s) :=
  ⟨h.queueBound, h.errCode, h.responseQuiet, h.doneQuiet, h.errQuiet, h.tailFits, h.compressingEmpty, h.roundAligned,
   h.lengthWhole, h.lengthFill, compressing_withPort P h.compressing⟩

/-- What the core represents does not depend on the ports. -/
theorem represents_withPort {m : List Byte} {s : State} (P : Port) (h : Represents m s) : Represents m (withPort P s) :=
  ⟨coreInv_withPort P h.inv, h.length, h.stream⟩

/-- What no observation tells apart stays so with the same ports on both. -/
theorem sameObservable_withPort {s t : State} (P : Port) (h : SameObservable s t) :
    SameObservable (withPort P s) (withPort P t) :=
  ⟨h.H, h.L, h.p, h.Q, h.FIN, h.phase, h.DONE, h.ERR, h.ERRCODE, h.RSP, rfl, h.impl, h.M, h.work, h.W, h.Wbuf⟩

/-- A run begins with its first step. -/
theorem core_run_succ {k : Nat} {s t : State} (h : step s = .next t) : core.run (k + 1) s = core.run k t := by
  simp only [Host.Core.run]
  rw [show core.step s = .next t from h]

/-- Runs compose. -/
theorem core_run_trans {m n : Nat} {s t u : State} (h1 : core.run m s = .next t) (h2 : core.run n t = .next u) :
    core.run (m + n) s = .next u := by
  induction m generalizing s with
  | zero => cases h1; simpa using h2
  | succ m ih =>
    rw [Nat.succ_add]
    cases hs : step s with
    | next s' =>
      rw [core_run_succ hs] at h1 ⊢
      exact ih h1
    | fault r => cases r
    | refused r =>
      simp only [Host.Core.run] at h1
      rw [show core.step s = .refused r from hs] at h1
      cases h1

end Sys2Proof.Machine
end

