-- ==== Sys2Proof/Tests/Slice0.lean ====
section
/-! SUPPORT. Tests whose expected results are the spec's (the examples of R80, the vectors V10 to V73, the tables of R77 and
R126), and for every obligation with hypotheses a witness that meets them. -/

namespace Sys2Proof.Tests

open Sys2Proof.Machine

/-! ## Small states -/

/-- A core fresh out of reset in which the message so far is `p` bytes, all of them 0. -/
def filled (p : Fin 64) : State := { State.reset with p := p, L := BitVec.ofNat 64 (8 * p.val) }

/-- After `ABSORB 3, 0x61626300` from reset (V53). -/
def absorbed : State :=
  { State.reset with L := 24, p := 3, M := ((State.reset.M.set 0 0x61).set 1 0x62).set 2 0x63 }

/-- A compression of 64 zero bytes from the IV, about to do round `t`. -/
def inRound (t : Fin 64) (c : Impl) : State :=
  { State.reset with
    phase := .round t, L := 512, impl := c,
    work := firstRounds (schedule State.reset.M) (loadWorking State.reset.H) t.val (by omega),
    W := schedule State.reset.M, Wbuf := windowAfter State.reset.M t.val }

/-- The reference machine with U rounds a step. -/
def unrolledBy (u : Unroll) : Impl := { Impl.reference with rounds := .unrolled u }

/-- The machine with 8 rounds a step and the circular schedule store. -/
def fastWindow : Impl := { Impl.reference with rounds := .unrolled .u8, sched := .window16 }

/-- About to accumulate. -/
def inAccum : State := { State.reset with phase := .accum, work := { Working.atReset with a := 1 } }

/-- After FINALIZE of the empty message. -/
def finished : State := { State.reset with DONE := true, H := digestState [] }

/-- With SEQUENCE recorded. -/
def erred : State := { State.reset with ERR := true, ERRCODE := .sequence }

/-- With the response 7 waiting. -/
def waiting : State := { State.reset with RSP := some 7 }

/-- With other levels on the host's side. -/
def hosted (f : Port → Port) (s : State) : State := withPort (f s.port) s

/-- With `rst` asserted. -/
def rstHigh (s : State) : State := hosted (fun P => { P with rst := true }) s

/-- With these turns planned. -/
def planned (l : List HostTurn) (s : State) : State := hosted (fun P => { P with plan := l }) s

/-- With these words offered. -/
def offered (l : List Cmd64) (s : State) : State := hosted (fun P => { P with offers := l }) s

/-! ## Well-formedness: each check refuses -/

theorem test_wellFormed_refuses_nb0 : ¬ (Instr.absorb 0 0x61626364).WellFormed := by decide

theorem test_wellFormed_refuses_nb5 : ¬ (Instr.absorb 5 0x61626364).WellFormed := by decide

theorem test_wellFormed_refuses_nb6_nb7 :
    ¬ (Instr.absorb 6 0).WellFormed ∧ ¬ (Instr.absorb 7 0).WellFormed := by decide

theorem test_wellFormed_accepts_nb1_nb4 :
    (Instr.absorb 1 0).WellFormed ∧ (Instr.absorb 4 0).WellFormed := by decide

/-! ## Decoding: words written bit by bit, DATA then RSV then ARG then OP (R70, R72) -/

/-- NOP: OP = 0x0, ARG = 0; DATA is ignored (R74). -/
theorem test_decode_nop :
    decode (0b11111111111111111111111111111111_0000000000000000000000000_000_0000#64) = .command .nop := by decide

/-- INIT: OP = 0x1, ARG = 0. -/
theorem test_decode_init :
    decode (0b00000000000000000000000000000000_0000000000000000000000000_000_0001#64) = .command .init := by decide

/-- ABSORB: OP = 0x2, ARG = NB = 3, DATA = "abc" and an ignored byte 0xff (R184). -/
theorem test_decode_absorb :
    decode (0b01100001011000100110001111111111_0000000000000000000000000_011_0010#64) =
      .command (.absorb 3 0x616263ff) := by decide

/-- FINALIZE: OP = 0x3, ARG = 0. -/
theorem test_decode_finalize :
    decode (0b00000000000000000000000000000000_0000000000000000000000000_000_0011#64) = .command .finalize := by decide

/-- READ_H: OP = 0x4, ARG = IDX = 5. -/
theorem test_decode_readH :
    decode (0b00000000000000000000000000000000_0000000000000000000000000_101_0100#64) = .command (.readH 5) := by decide

/-- OP = 0xF is reserved, code 1 (V62). -/
theorem test_decode_op15 :
    decode (0b00000000000000000000000000000000_0000000000000000000000000_000_1111#64) = .illegal .illegalOp := by decide

/-- READ_H 2 with RSV bit 7, code 2 (V68); FINALIZE with ARG = 1, code 2 (V67). -/
theorem test_decode_reserved :
    decode (0b00000000000000000000000000000000_0000000000000000000000001_010_0100#64) = .illegal .reserved ∧
    decode (0b00000000000000000000000000000000_0000000000000000000000000_001_0011#64) = .illegal .reserved := by decide

/-- ABSORB with NB = 5, code 3 (V71). -/
theorem test_decode_nb5 :
    decode (0b00000000000000000000000000000000_0000000000000000000000000_101_0010#64) = .illegal .badNb := by decide

/-- The encodings of R80. -/
theorem test_encode_examples :
    encode .nop = 0x0000000000000000 ∧ encode .init = 0x0000000000000001 ∧
    encode (.absorb 3 0x61626300) = 0x6162630000000032 ∧ encode (.absorb 4 0x61626364) = 0x6162636400000042 ∧
    encode .finalize = 0x0000000000000003 ∧ encode (.readH 0) = 0x0000000000000004 ∧
    encode (.readH 7) = 0x0000000000000074 := by decide

/-- The table gives each row its low 32 bits; the bits above are 0. -/
theorem test_decodeTableWord :
    decodeTableWord 32 0x00000000 = some .nop ∧ decodeTableWord 32 0x00000001 = some .init ∧
    decodeTableWord 32 0x00000012 = some (.absorb 1 0) ∧ decodeTableWord 32 0x00000003 = some .finalize ∧
    decodeTableWord 32 0x00000074 = some (.readH 7) ∧ decodeTableWord 32 0x00000002 = none := by decide

/-! ## One step of each command -/

/-- A placed word is the one the very next step executes. -/
theorem test_step_first_command :
    step (State.reset.withFetchWord 64 0x6162630000000032) = exec (.absorb 3 0x61626300) State.reset ∧
    step (State.reset.withFetchWord 64 0x0000000000000034) = exec (.readH 3) State.reset := ⟨rfl, rfl⟩

/-- V52. -/
theorem test_nop_step : step (State.reset.withFetchWord 64 0) = .next State.reset := rfl

/-- R183: INIT clears the error record; V72's last line. -/
theorem test_init_clears_error :
    exec .init { erred with L := 24, p := 3, DONE := true } = .next State.reset := rfl

/-- V53, V30: L at once; three appends; nothing compressed. -/
theorem test_absorb_abc :
    ∃ t, exec (.absorb 3 0x616263ff) State.reset = .next t ∧ t.L = 0x18 ∧ t.Q = [0x61, 0x62, 0x63] ∧
      engineRun 3 t = absorbed := ⟨_, rfl, by decide, by decide, by decide⟩

/-- V31, V32: L wraps modulo 2^64 and nothing else happens. -/
theorem test_absorb_wraps_length :
    (loadMessage 1 0 { State.reset with L := 0xfffffffffffffff8 }).L = 0 ∧
    (loadMessage 4 0 { State.reset with L := 0xfffffffffffffff0 }).L = 0x10 ∧
    (loadMessage 4 0 { State.reset with L := 0xfffffffffffffff0 }).ERR = false := by decide

/-- P3: the tail FINALIZE loads at p = 56 with L = 0x1c0. -/
theorem test_finalize_tail :
    ∃ t, exec .finalize (filled 56) = .next t ∧ t.FIN = true ∧ t.L = 0x1c0 ∧
      t.Q = [0x80] ++ List.replicate 63 0x00 ++ [0x00, 0x00, 0x00, 0x00, 0x00, 0x00, 0x01, 0xc0] :=
  ⟨_, rfl, by decide, by decide, by decide⟩

/-- V58: a second FINALIZE is SEQUENCE, status 0x46. -/
theorem test_finalize_twice :
    ∃ t, exec .finalize { State.reset with DONE := true } = .next t ∧ statusWord t = 0x46 ∧ t.Q = [] :=
  ⟨_, rfl, by decide, by decide⟩

/-- V60: READ_H 3 right after reset. -/
theorem test_readH_iv : ∃ t, exec (.readH 3) State.reset = .next t ∧ t.RSP = some 0xa54ff53a ∧ t.H = IV :=
  ⟨_, rfl, by decide, by decide⟩

/-- V61, V68, V70: the status after one illegal word from reset. -/
theorem test_illegal_status :
    ∃ a b c, accept 0x0000000000000005 State.reset = .next a ∧ statusWord a = 0x14 ∧
      accept 0x00000000000000a4 State.reset = .next b ∧ statusWord b = 0x24 ∧
      accept 0x0000000000000002 State.reset = .next c ∧ statusWord c = 0x34 ∧ c.H = IV ∧ c.RSP = none :=
  ⟨_, _, _, rfl, by decide, rfl, by decide, rfl, by decide, by decide, by decide⟩

/-! ## Vectors of the datapath -/

/-- V10, V11, V12. -/
theorem test_rotr :
    rotr 0x00000001 1 = 0x80000000 ∧ rotr 0x80000000 31 = 0x00000001 ∧ rotr 0x12345678 4 = 0x81234567 := by decide

/-- V16, V18. -/
theorem test_ch_maj :
    ch 0xffffffff 0x12345678 0x9abcdef0 = 0x12345678 ∧ ch 0x00000000 0x12345678 0x9abcdef0 = 0x9abcdef0 ∧
    maj 0x12345678 0x12345678 0x9abcdef0 = 0x12345678 := by decide

/-- V22, V24, V25. -/
theorem test_sigma :
    smallSigma0 0x80000000 = 0x11002000 ∧ smallSigma1 0x80000000 = 0x00205000 ∧
    bigSigma0 0x80000000 = 0x20040200 ∧ bigSigma1 0x80000000 = 0x02100040 ∧
    bigSigma0 0x61626380 = 0x8dd59276 ∧ bigSigma1 0x61626380 = 0xc0b865f2 ∧
    smallSigma0 0x61626380 + 1 = 0x940e90f0 := by decide

/-- The padded block of "abc" (V27). -/
def abcBlock : Block := blockOf (pad [0x61, 0x62, 0x63]) 0

/-- V27, V29. -/
theorem test_padder :
    pad [0x61, 0x62, 0x63] = [0x61, 0x62, 0x63, 0x80] ++ List.replicate 59 0x00 ++ [0x18] ∧
    [0, 1, 54, 55, 56, 57, 62, 63].map (fun p : Fin 64 => (padTail p 0).length) = [64, 63, 10, 9, 72, 71, 66, 65] := by
  decide +kernel

/-- V34. -/
theorem test_schedule :
    (schedule abcBlock)[18] = 0x7da86405 ∧ (schedule abcBlock)[39] = 0x24641522 ∧
    (schedule abcBlock)[63] = 0x12b1edeb := by decide +kernel

/-- V36, rounds 0 and 63. -/
theorem test_rounds :
    (firstRounds (schedule abcBlock) (loadWorking IV) 1 (by omega)).a = 0x5d6aebcd ∧
    (firstRounds (schedule abcBlock) (loadWorking IV) 1 (by omega)).e = 0xfa2a4622 ∧
    (firstRounds (schedule abcBlock) (loadWorking IV) 64 (by omega)).a = 0x506e3058 ∧
    (firstRounds (schedule abcBlock) (loadWorking IV) 64 (by omega)).e = 0x5ef50f24 := by decide +kernel

/-- V37, V2: the digest of "abc". -/
theorem test_digest_abc :
    digestState [0x61, 0x62, 0x63] =
      #v[0xba7816bf, 0x8f01cfea, 0x414140de, 0x5dae2223, 0xb00361a3, 0x96177a9c, 0xb410ff61, 0xf20015ad] := by
  decide +kernel

/-- V73: FINALIZE takes 130 engine steps from reset, 127 at p = 3 and 203 at p = 56. -/
theorem test_step_counts :
    remainingSteps (loadTail State.reset) = 130 ∧ remainingSteps (loadTail (filled 3)) = 127 ∧
    remainingSteps (loadTail (filled 56)) = 203 ∧ remainingSteps (loadMessage 3 0 State.reset) = 3 := by decide

/-- The values R9 allows, at reset. -/
theorem test_parameters : Impl.wf State.reset.impl ∧ Impl.wf fastWindow := by decide

/-! ## The assembler (R78, R79, R81) -/

theorem test_assemble_text :
    assembleText "ABSORB 3, 0x61626300 ; abc".toList = some [0x6162630000000032] ∧
    assembleText " READ_H 7".toList = some [0x0000000000000074] ∧
    assembleText ".cmd 0x0000000000000080".toList = some [0x0000000000000080] ∧
    assembleText "ABSORB 5, 0".toList = none ∧ assembleText "READ_H 8".toList = none ∧
    assembleText "ABSORB 1, 0x100000000".toList = none := by decide +kernel

theorem test_assemble_hash :
    assembleText "HASH \"abcde\"".toList = some ([.init, .absorb 4 0x61626364, .absorb 1 0x65000000, .finalize,
      .readH 0, .readH 1, .readH 2, .readH 3, .readH 4, .readH 5, .readH 6, .readH 7].map encode) := by decide +kernel

theorem test_disassemble :
    printLine (disassemble 0x616263ff00000032) = "ABSORB 3, 0x616263ff".toList ∧
    printLine (disassemble 0x0000000000000289) = ".cmd 0x0000000000000289".toList ∧
    printLine (disassemble 0x1234567800000001) = "INIT".toList := by decide +kernel

/-! ## Witnesses: for every obligation with hypotheses, states and operands that meet them together -/

/-- StepExecutesDecodedCommand. -/
theorem witness_StepExecutesDecodedCommand :
    let s := offered [0x6162630000000032] State.reset
    coreTurn s = true ∧ cmdReady s = true ∧ s.port.offers = [0x6162630000000032] ∧
      decode 0x6162630000000032 = .command (.absorb 3 0x61626300) := by decide

/-- RaisedErrorRecordsFirstCode: an illegal word, with no error yet and with one recorded. -/
theorem witness_RaisedError_illegal :
    (let s := offered [5] State.reset
     coreTurn s = true ∧ cmdReady s = true ∧ s.port.offers = [5] ∧ decode 5 = .illegal .illegalOp) ∧
    (let s := offered [0x80] erred
     coreTurn s = true ∧ cmdReady s = true ∧ s.port.offers = [0x80] ∧ decode 0x80 = .illegal .reserved) ∧
    (let s := offered [2] State.reset
     coreTurn s = true ∧ cmdReady s = true ∧ s.port.offers = [2] ∧ decode 2 = .illegal .badNb) := by decide

/-- RaisedErrorRecordsFirstCode: a gated command after DONE. -/
theorem witness_RaisedError_sequence :
    let s := offered [3] { State.reset with DONE := true }
    coreTurn s = true ∧ cmdReady s = true ∧ s.port.offers = [3] ∧ s.ERR = false ∧ s.DONE = true ∧
      decode 3 = .command .finalize := by decide

/-- DecodeOfEncodeIsIdentity: at the ends of the operand ranges. -/
theorem witness_DecodeOfEncode :
    (Instr.absorb 1 0).WellFormed ∧ (Instr.absorb 4 0xffffffff).WellFormed ∧ (Instr.readH 0).WellFormed ∧
      (Instr.readH 7).WellFormed ∧ Instr.nop.WellFormed := by decide

/-- EncodeOfDecodeKeepsWord: an ABSORB, and a word whose DATA is lost. -/
theorem witness_EncodeOfDecode :
    decode 0x616263ff00000032 = .command (.absorb 3 0x616263ff) ∧ decode 0x1234567800000000 = .command .nop := by
  decide

/-- FifteenLegalLowHalves and IllegalCodesByPriority: each class of words has one. -/
theorem witness_IllegalCodes :
    decode 0x0000000000000001 = .command .init ∧ 5 ≤ (opField 0x289).toNat ∧
    ((opField 0x80).toNat < 5 ∧ rsvField 0x80 ≠ 0) ∧ ((opField 0x10).toNat < 5 ∧ opField 0x10 = 0 ∧ argField 0x10 ≠ 0) ∧
    (opField 0x52 = 2 ∧ rsvField 0x52 = 0 ∧ argField 0x52 = 5) := by decide

/-- IgnoredDataBytesHaveNoEffect: NB = 1 with the three other bytes different. -/
theorem witness_IgnoredDataBytes :
    NbLegal 1 ∧ (0x61000000 : Word32) ≠ 0x61ffffff ∧
      ∀ i : Nat, 32 - 8 * (1#3).toNat ≤ i → (0x61000000 : Word32).getLsbD i = (0x61ffffff : Word32).getLsbD i := by
  refine ⟨by decide, by decide, fun i hi => ?_⟩
  by_cases h : i < 32
  · have hi' : 24 ≤ i := hi
    have : ∀ j : Fin 32, 24 ≤ j.val → (0x61000000 : Word32).getLsbD j.val = (0x61ffffff : Word32).getLsbD j.val := by
      decide
    exact this ⟨i, h⟩ hi'
  · rw [BitVec.getLsbD_of_ge _ _ (by omega), BitVec.getLsbD_of_ge _ _ (by omega)]

/-- AssembleOfDisassemble: each of its three clauses. -/
theorem witness_AssembleOfDisassemble :
    decode 5 = .illegal .illegalOp ∧ decode 0x616263ff00000032 = .command (.absorb 3 0x616263ff) ∧
      decode 0x1234567800000074 = .command (.readH 7) := by decide

/-- NopChangesNothing, second clause: both outcomes. -/
theorem witness_NopWords :
    opField 0x1234567800000000 = 0 ∧ argField 0x1234567800000000 = 0 ∧ rsvField 0x1234567800000000 = 0 ∧
      opField 0x10 = 0 ∧ argField 0x10 ≠ 0 := by decide

/-- AbsorbLoadsBytes, at both ends of NB. -/
theorem witness_AbsorbLoadsBytes :
    NbLegal 1 ∧ NbLegal 4 ∧ (filled 62).ERR = false ∧ (filled 62).DONE = false := by decide

/-- FinalizeLoadsTail, on both sides of the spill. -/
theorem witness_FinalizeLoadsTail :
    (filled 55).ERR = false ∧ (filled 55).DONE = false ∧ (filled 56).ERR = false ∧ (filled 56).DONE = false := by decide

/-- GateOrder: each of its five clauses. -/
theorem witness_GateOrder :
    ¬ NbLegal 0 ∧ ¬ NbLegal 5 ∧ (NbLegal 4 ∧ erred.ERR = true) ∧
      (NbLegal 1 ∧ finished.ERR = false ∧ finished.DONE = true) := ⟨by decide, by decide, by decide, by decide, rfl, rfl⟩

/-- CommandFrame: every command answers a next state. -/
theorem witness_CommandFrame :
    ∃ a b c d e, exec .nop State.reset = .next a ∧ exec .init erred = .next b ∧
      exec (.absorb 4 0x61626364) State.reset = .next c ∧ exec .finalize (filled 56) = .next d ∧
      exec (.readH 7) State.reset = .next e := ⟨_, _, _, _, _, rfl, rfl, rfl, rfl, rfl⟩

/-- RotateMovesEveryBit, ChooseAndMajority, SigmaBits: the ends of their ranges, and of the ranges where the shifts run out. -/
theorem witness_bit_ranges :
    (0 < 1 ∧ 1 < 32) ∧ (0 < 31 ∧ 31 < 32) ∧ (28 < 29 ∧ ¬ 29 < 29 ∧ 29 < 32) ∧ (21 < 22 ∧ ¬ 22 < 22 ∧ 31 < 32) := by decide

/-- PadTailLength: both ranges of p, and their ends. -/
theorem witness_PadTailLength : (55 : Fin 64).val ≤ 55 ∧ 56 ≤ (56 : Fin 64).val ∧ 56 ≤ (63 : Fin 64).val := by decide

/-- PadShape: a message on each side of the spill, and an index in the zeros of its last block. -/
theorem witness_PadShape :
    (List.replicate 55 (0x61 : Byte)).length % 64 ≤ 55 ∧ 56 ≤ (List.replicate 56 (0x61 : Byte)).length % 64 ∧
      (pad (List.replicate 56 0x61)).length - 64 ≤ 119 ∧ 119 < (pad (List.replicate 56 0x61)).length - 8 := by
  decide +kernel

/-- MessageThenTailIsPad: a message shorter than a block, and one of a whole block. -/
theorem witness_MessageThenTailIsPad :
    (3 : Fin 64).val = [(0x61 : Byte), 0x62, 0x63].length % 64 ∧
      (0 : Fin 64).val = (List.replicate 64 (0x61 : Byte)).length % 64 := by decide

/-- ScheduleRecurrence and WindowHoldsSchedule: the ends of their ranges of indices. -/
theorem witness_schedule_ranges : 0 < 16 ∧ 15 < 16 ∧ (16 ≤ 16 ∧ 16 < 64) ∧ (16 ≤ 63 ∧ 63 < 64) := by decide

/-- The compression of `inRound` is one. -/
theorem inRound_compressing (t : Fin 64) (c : Impl) : Compressing (inRound t c) where
  work t' h := by cases h; rfl
  workAtEnd h := by cases h
  array _ _ _ := rfl
  window _ t' h := by cases h; rfl

/-- RoundStepAdvances: the last round under `serial`, the last step under U = 2, the only one under U = 64. -/
theorem witness_RoundStepAdvances :
    ((inRound 63 Impl.reference).phase = .round 63 ∧ Compressing (inRound 63 Impl.reference) ∧
      1 = roundsPerStep (inRound 63 Impl.reference).impl.rounds ∧ 1 ∣ (63 : Fin 64).val) ∧
    ((inRound 62 (unrolledBy .u2)).phase = .round 62 ∧ Compressing (inRound 62 (unrolledBy .u2)) ∧
      2 = roundsPerStep (inRound 62 (unrolledBy .u2)).impl.rounds ∧ 2 ∣ (62 : Fin 64).val) ∧
    ((inRound 0 (unrolledBy .u64)).phase = .round 0 ∧ Compressing (inRound 0 (unrolledBy .u64)) ∧
      64 = roundsPerStep (inRound 0 (unrolledBy .u64)).impl.rounds ∧ 64 ∣ (0 : Fin 64).val) :=
  ⟨⟨rfl, inRound_compressing _ _, rfl, by decide⟩, ⟨rfl, inRound_compressing _ _, rfl, by decide⟩,
   ⟨rfl, inRound_compressing _ _, rfl, by decide⟩⟩

/-- AccumulateAddsAllWords. -/
theorem witness_AccumulateAddsAllWords : inAccum.phase = .accum := rfl

/-- EngineCompressionIsCompress: the state, and the ends of the count of steps. -/
theorem witness_EngineCompressionIsCompress :
    let s := { filled 63 with Q := [0x80, 0x00] }
    s.phase = .idle ∧ s.Q = 0x80 :: [0x00] ∧ s.p = 63 ∧ 1 ≤ compressionSteps s.impl ∧ compressionSteps s.impl = 65 := by
  decide

/-- AppendStep: below the last byte, and at it. -/
theorem witness_AppendStep :
    (let s := { filled 62 with Q := [0x80] }; s.phase = .idle ∧ s.Q = [0x80] ∧ s.p.val < 63) ∧
    (let s := { filled 63 with Q := [0x80] }; s.phase = .idle ∧ s.Q = [0x80] ∧ s.p.val = 63) := by decide

/-- FinishStep. -/
theorem witness_FinishStep :
    let s := { State.reset with FIN := true }
    s.phase = .idle ∧ s.Q = [] ∧ s.FIN = true := by decide

/-- EngineStepsCountDown: a step that is the engine's, and a core with none. -/
theorem witness_EngineStepsCountDown :
    (coreTurn inAccum = true ∧ inAccum.port.rst = false ∧ busy inAccum = true) ∧ busy State.reset = false := by decide

/-- CommandStepCounts: an ABSORB that fills the block, FINALIZE at p = 55, p = 56 and p = 63, under `serial`. -/
theorem witness_CommandStepCounts :
    (quiescent (filled 60) = true ∧ (filled 60).ERR = false ∧ (filled 60).DONE = false ∧
      1 = roundsPerStep (filled 60).impl.rounds ∧ NbLegal 4 ∧ 64 ≤ (filled 60).p.val + (4#3).toNat ∧
      ∃ t, exec (.absorb 4 0x61616161) (filled 60) = .next t) ∧
    (quiescent (filled 55) = true ∧ (filled 55).p = 55 ∧ ∃ t, exec .finalize (filled 55) = .next t) ∧
    (quiescent (filled 56) = true ∧ (filled 56).p = 56 ∧ ∃ t, exec .finalize (filled 56) = .next t) :=
  ⟨⟨by decide, rfl, rfl, rfl, by decide, by decide, _, rfl⟩, ⟨by decide, rfl, _, rfl⟩, ⟨by decide, rfl, _, rfl⟩⟩

/-- CompressionHoldsState: the last round, and the accumulate step. -/
theorem witness_CompressionHoldsState :
    ((inRound 63 Impl.reference).phase ≠ .idle ∧ resetting (inRound 63 Impl.reference) = false ∧
      (inRound 63 Impl.reference).phase ≠ .accum ∧ ∃ t, step (inRound 63 Impl.reference) = .next t) ∧
    (inAccum.phase ≠ .idle ∧ resetting inAccum = false ∧ busy inAccum = true ∧ ∃ t, step inAccum = .next t) :=
  ⟨⟨nofun, rfl, nofun, _, rfl⟩, ⟨nofun, rfl, rfl, _, rfl⟩⟩

/-- EngineFrame: each way into its last two clauses. -/
theorem witness_EngineFrame :
    inAccum.phase ≠ .idle ∧ { State.reset with Q := [0x80], FIN := true }.Q ≠ [] ∧ State.reset.FIN = false ∧
      State.reset.phase ≠ .accum := by decide

/-- ResetStepFromAnyState: by the level while a compression runs, and by the host's turn with a response waiting that the host
would otherwise take. -/
theorem witness_ResetStepFromAnyState :
    resetting (rstHigh inAccum) = true ∧ busy (rstHigh inAccum) = true ∧
      resetting (planned [.driveRst true] waiting) = true ∧ (planned [.driveRst true] waiting).RSP = some 7 ∧
      (planned [.driveRst true] waiting).port.rspReady = true := by decide

/-- WhileResetIsAsserted: its second and third clauses. -/
theorem witness_WhileResetIsAsserted :
    (rstHigh waiting).port.rst = true ∧ resetting (rstHigh (planned [.core, .driveRst false] waiting)) = true ∧
      ∃ t r, step (rstHigh (planned [.core, .driveRst false] waiting)) = .next t ∧
        t.port.plan = .driveRst false :: [] ∧ step t = .next r := ⟨by decide, by decide, _, _, rfl, rfl, rfl⟩

/-- ResetStateReadyToAbsorb. -/
theorem witness_ResetStateReadyToAbsorb : NbLegal 1 ∧ NbLegal 4 := by decide

/-- ResetAndInitLookAlike. -/
theorem witness_ResetAndInitLookAlike :
    quiescent absorbed = true ∧ ∃ t, exec .init absorbed = .next t := ⟨by decide, _, rfl⟩

/-- StatusWordLayout: `rst` released, and the end of the reserved bits. -/
theorem witness_StatusWordLayout : erred.port.rst = false ∧ 7 ≤ 7 ∧ 7 ≤ 31 := by decide

/-- StatusReadHasNoSideEffect: while BUSY = 1 with `rst` released, and with `rst` asserted and an error on record. -/
theorem witness_StatusReadHasNoSideEffect :
    ((planned [.readStatus, .core] inAccum).port.plan = .readStatus :: [.core] ∧
      (planned [.readStatus, .core] inAccum).port.rst = false ∧
      busy (planned [.readStatus, .core] inAccum) = true) ∧
    ((planned [.readStatus] (rstHigh erred)).port.plan = .readStatus :: [] ∧
      (planned [.readStatus] (rstHigh erred)).port.rst = true) := by decide

/-- OfferedCommandIsHeld: a word accepted, a word held, a word offered. -/
theorem witness_OfferedCommandIsHeld :
    (accepted (offered [1] State.reset) = some 1 ∧ ∃ t, step (offered [1] State.reset) = .next t) ∧
    (accepted (offered [1] inAccum) = none ∧ ∃ t, step (offered [1] inAccum) = .next t) ∧
    (accepted (planned [.offer 3] (offered [1] State.reset)) = none ∧
      ∃ t, step (planned [.offer 3] (offered [1] State.reset)) = .next t) :=
  ⟨⟨by decide, _, rfl⟩, ⟨by decide, _, rfl⟩, ⟨by decide, _, rfl⟩⟩

/-- ResponseIsTaken. -/
theorem witness_ResponseIsTaken :
    coreTurn waiting = true ∧ busy waiting = false ∧ waiting.RSP = some 7 ∧ waiting.port.rst = false ∧
      waiting.port.rspReady = true := by decide

/-- UntakenResponseStalls: stalled with a command on offer and nothing planned, and idle with and without a planned turn. -/
theorem witness_UntakenResponseStalls :
    (let s := hosted (fun P => { P with rspReady := false }) (offered [1] waiting)
     s.RSP = some 7 ∧ s.port.rspReady = false ∧ resetting s = false ∧ s.port.plan = [] ∧ busy s = false ∧
       ∃ t, step s = .next t) ∧
    (quiescent finished = true ∧ finished.port.rst = false ∧ finished.port.offers = [] ∧ coreTurn finished = true ∧
      finished.port.plan = []) ∧
    (let s := planned [.core] absorbed
     quiescent s = true ∧ s.port.rst = false ∧ s.port.offers = [] ∧ coreTurn s = true) :=
  ⟨⟨rfl, rfl, rfl, rfl, by decide, _, rfl⟩, ⟨by decide, rfl, rfl, rfl, rfl⟩, by decide⟩

/-- OnlyReadHResponds: a step that fills RSP, one in which the host takes the response, and one in which it stays. -/
theorem witness_OnlyReadHResponds :
    (∃ t, step (offered [0x74] State.reset) = .next t ∧ t.RSP = some 0x5be0cd19) ∧
    (resetting waiting = false ∧ waiting.RSP = some 7 ∧ ∃ t, step waiting = .next t ∧ t.port.taken = [7]) ∧
    (let s := planned [.readStatus] waiting
     resetting s = false ∧ s.RSP = some 7 ∧ ∃ t, step s = .next t ∧ t.RSP = some 7 ∧ t.port.taken = []) :=
  ⟨⟨_, rfl, by decide⟩, ⟨rfl, rfl, _, rfl, by decide⟩, ⟨rfl, rfl, _, rfl, rfl, rfl⟩⟩

/-- HashStateWriters: each of the three writers. -/
theorem witness_HashStateWriters :
    (∃ t, step (rstHigh { State.reset with H := Vector.replicate 8 0 }) = .next t ∧ t.H ≠ Vector.replicate 8 0) ∧
    (∃ t, step inAccum = .next t ∧ t.H ≠ inAccum.H) ∧
    (∃ t, step (offered [1] { State.reset with H := Vector.replicate 8 0 }) = .next t ∧ t.H ≠ Vector.replicate 8 0) :=
  ⟨⟨_, rfl, by decide⟩, ⟨_, rfl, by decide⟩, ⟨_, rfl, by decide⟩⟩

/-- The invariant of a state with DONE = 1. -/
theorem finished_inv : CoreInv finished :=
  ⟨by decide, by decide, by decide, fun _ => ⟨rfl, rfl⟩, nofun, nofun, fun h => absurd rfl h, nofun, by decide, nofun,
   compressing_of_idle rfl⟩

/-- DigestIsImmutable: a refused ABSORB, and a READ_H. -/
theorem witness_DigestIsImmutable :
    let s := offered [0x6100000000000012, 0x04] finished
    CoreInv s ∧ s.DONE = true ∧ resetting s = false ∧ (∀ w, accepted s = some w → decode w ≠ .command .init) ∧
      ∃ t, step s = .next t := by
  refine ⟨⟨by decide, by decide, by decide, fun _ => ⟨rfl, rfl⟩, nofun, nofun, fun h => absurd rfl h, nofun, by decide,
    nofun, compressing_of_idle rfl⟩, rfl, rfl, fun w h => ?_, _, rfl⟩
  cases h; decide

/-- ErrorIsSticky: an ABSORB that is ignored. -/
theorem witness_ErrorIsSticky :
    let s := offered [0x6162630000000032] erred
    CoreInv s ∧ s.ERR = true ∧ resetting s = false ∧ (∀ w, accepted s = some w → decode w ≠ .command .init) ∧
      ∃ t, step s = .next t := by
  refine ⟨⟨by decide, by decide, by decide, nofun, fun _ => rfl, nofun, fun h => absurd rfl h, nofun, by decide,
    fun _ _ => by decide, compressing_of_idle rfl⟩, rfl, rfl, fun w h => ?_, _, rfl⟩
  cases h; decide

/-- StepKeepsInv: in the last round of a compression, and with a command on offer. -/
theorem witness_StepKeepsInv :
    (CoreInv (inRound 63 Impl.reference) ∧ ∃ t, step (inRound 63 Impl.reference) = .next t) ∧
    (CoreInv finished ∧ ∃ t, step finished = .next t) :=
  ⟨⟨⟨by decide, by decide, fun h => absurd rfl h, nofun, nofun, nofun, fun _ => rfl,
      fun t _ => ⟨t.val, (Nat.one_mul _).symm⟩, by decide, fun _ _ => by decide, inRound_compressing _ _⟩, _, rfl⟩,
   ⟨finished_inv, _, rfl⟩⟩

/-- The core that has absorbed "abc" represents it. -/
theorem absorbed_represents : Represents [0x61, 0x62, 0x63] absorbed where
  inv := ⟨by decide, by decide, by decide, nofun, nofun, nofun, fun h => absurd rfl h, nofun, by decide,
    fun _ _ => by decide, compressing_of_idle rfl⟩
  length := by decide
  stream := ⟨[0x61, 0x62, 0x63], rfl, rfl, by decide, fun _ => rfl, fun h => absurd rfl h⟩

/-- StepKeepsMessage: the step that accepts `ABSORB 1, 0x64000000` after "abc". -/
theorem witness_StepKeepsMessage :
    let s := offered [0x6400000000000012] absorbed
    Represents [0x61, 0x62, 0x63] s ∧ (∃ t, step s = .next t) ∧
      messageAfter s [0x61, 0x62, 0x63] = [0x61, 0x62, 0x63, 0x64] := by
  refine ⟨?_, ⟨_, rfl⟩, by decide⟩
  exact ⟨⟨by decide, by decide, by decide, nofun, nofun, nofun, fun h => absurd rfl h, nofun, by decide,
    fun _ _ => by decide, compressing_of_idle rfl⟩, by decide, absorbed_represents.stream⟩

/-- DoneMeansDigest: both clauses. -/
theorem witness_DoneMeansDigest :
    (Represents [] finished ∧ finished.DONE = true) ∧
    (Represents [0x61, 0x62, 0x63] absorbed ∧ absorbed.DONE = false ∧ busy absorbed = false) :=
  ⟨⟨⟨finished_inv, rfl, pad [], List.append_nil _, by decide +kernel, fun j h => absurd h (Nat.not_lt_zero _),
      fun _ => by unfold finished digestState; rfl, fun h => absurd rfl h⟩, rfl⟩, absorbed_represents, rfl, by decide⟩

/-- AtomicFormIsReached: FINALIZE from reset, with engine steps to take. -/
theorem witness_AtomicFormIsReached :
    quiescent State.reset = true ∧ ∃ t, accept 3 State.reset = .next t ∧ 129 < remainingSteps t :=
  ⟨by decide, _, rfl, by decide⟩

/-- ParametersAreNotObservable: the reference machine against eight rounds a step and the circular store. -/
theorem witness_ParametersAreNotObservable :
    quiescent State.reset = true ∧ (∃ t, accept 3 State.reset = .next t) ∧
      ∃ t, accept 3 { State.reset with impl := fastWindow } = .next t := ⟨by decide, ⟨_, rfl⟩, _, rfl⟩

/-- A core out of reset with other unspecified contents. -/
def otherContents : State :=
  { State.reset with M := Vector.replicate 64 0xff, W := Vector.replicate 64 1, work := loadWorking IV, draws := 9 }

/-- UnspecifiedContentsAreNotObservable: two states that differ, an ABSORB on offer to both. -/
theorem witness_UnspecifiedContentsAreNotObservable :
    let s := offered [0x6100000000000012] State.reset
    let s' := offered [0x6100000000000012] otherContents
    s ≠ s' ∧ SameObservable s s' ∧ (∃ t, step s = .next t) ∧ ∃ t, step s' = .next t :=
  ⟨by decide, ⟨rfl, rfl, rfl, rfl, rfl, rfl, rfl, rfl, rfl, rfl, rfl, rfl, fun _ h => absurd h (Nat.not_lt_zero _),
    fun h => absurd rfl h, fun h => absurd rfl h, fun h => absurd rfl h⟩, ⟨_, rfl⟩, _, rfl⟩

/-- DigestOfAnySplit: "abcde" in two pieces, from reset and from an INIT. -/
theorem witness_DigestOfAnySplit :
    let pieces : List (BitVec 3 × Word32) := [(4, 0x61626364), (1, 0x65000000)]
    Fresh State.reset ∧ (∃ r, quiescent r = true ∧ exec .init r = .next State.reset) ∧ (∀ x ∈ pieces, NbLegal x.1) ∧
      ∃ t, t = runCommand .finalize (runAbsorbs pieces State.reset) :=
  ⟨⟨rfl, rfl, rfl, rfl, rfl, rfl, rfl, rfl, rfl, rfl⟩, ⟨{ State.reset with DONE := true }, by decide, rfl⟩,
   fun x hx => by
    rcases List.mem_cons.1 hx with rfl | hx
    · decide
    · rcases List.mem_singleton.1 hx with rfl
      decide, _, rfl⟩

/-- HashCommandsYieldDigest: `HASH "abc"` offered to a core out of reset. -/
theorem witness_HashCommandsYieldDigest :
    let s := offered ((expand (.hash [0x61, 0x62, 0x63])).map encode) State.reset
    quiescent s = true ∧ s.port.rst = false ∧ s.port.rspReady = true ∧ s.port.plan = [] ∧
      s.port.offers = (expand (.hash [0x61, 0x62, 0x63])).map encode ∧ s.port.taken = [] := by decide

end Sys2Proof.Tests
end

section
/-! SUPPORT. What accepting a word can do: the inversion lemma of `accept`, beside `step_event`. -/

namespace Sys2Proof.Machine

/-- No word is illegal with the code that says there is no error (R76). -/
theorem decode_ne_illegal_none (w : Cmd64) : decode w ≠ .illegal .none := by
  unfold decode
  simp only
  split_ifs <;> simp

theorem accept_illegal {w : Cmd64} {c : ErrCode} (h : decode w = .illegal c) (s : State) :
    accept w s = .next (raiseError c s) := by
  simp only [accept, h]

theorem accept_command {w : Cmd64} {i : Instr} (h : decode w = .command i) (s : State) :
    accept w s = exec i s := by
  simp only [accept, h]

/-- What an accepted word can do (R180, R214), and with what it is known to have done it. -/
inductive AcceptEvent (w : Cmd64) (s : State) : State → Prop where
  /-- NOP, or a word that an earlier error makes ineffective (R182, R215). -/
  | ignored (h : decode w = .command .nop ∨ s.ERR = true) : AcceptEvent w s s
  /-- The first error since INIT or reset (R211, R212). -/
  | error (c : ErrCode) (hc : c ≠ .none) (he : s.ERR = false)
      (h : decode w = .illegal c ∨
        c = .sequence ∧ s.DONE = true ∧ ∃ i, decode w = .command i ∧ (i = .finalize ∨ ∃ nb d, i = .absorb nb d)) :
      AcceptEvent w s { s with ERR := true, ERRCODE := c }
  /-- INIT (R183). -/
  | init (h : decode w = .command .init) : AcceptEvent w s (startMessage s)
  /-- An ABSORB that passes the gate (R184). -/
  | absorb (nb : BitVec 3) (d : Word32) (h : decode w = .command (.absorb nb d)) (hn : NbLegal nb)
      (he : s.ERR = false) (hd : s.DONE = false) : AcceptEvent w s (loadMessage nb d s)
  /-- A FINALIZE that passes the gate (R185). -/
  | finalize (h : decode w = .command .finalize) (he : s.ERR = false) (hd : s.DONE = false) :
      AcceptEvent w s (loadTail s)
  /-- READ_H (R192). -/
  | readH (idx : Fin 8) (h : decode w = .command (.readH idx)) : AcceptEvent w s (respond s.H[idx] s)

theorem accept_event_illegal {w : Cmd64} {c : ErrCode} (h : decode w = .illegal c) (s : State) :
    AcceptEvent w s (raiseError c s) := by
  rcases Bool.eq_false_or_eq_true s.ERR with he | he
  · rw [raiseError_of_err c he]
    exact .ignored (.inr he)
  · rw [raiseError_of_no_err c he]
    exact .error c (fun hc => decode_ne_illegal_none w (hc ▸ h)) he (.inl h)

/-- The two commands behind the gate of R180. -/
theorem accept_event_gated {w : Cmd64} {i : Instr} {f : State → State} {s : State} (h : decode w = .command i)
    (hi : i = .finalize ∨ ∃ nb d, i = .absorb nb d)
    (hf : s.ERR = false → s.DONE = false → AcceptEvent w s (f s)) : AcceptEvent w s (gated f s) := by
  rcases gated_cases f s with ⟨he, e⟩ | ⟨he, hd, e⟩ | ⟨he, hd, e⟩ <;> rw [e]
  · exact .ignored (.inr he)
  · exact .error .sequence (by decide) he (.inr ⟨rfl, hd, i, h, hi⟩)
  · exact hf he hd

/-- The inversion lemma of `accept`. -/
theorem accept_event {w : Cmd64} {s t : State} (h : accept w s = .next t) : AcceptEvent w s t := by
  cases hw : decode w with
  | illegal c =>
    rw [accept_illegal hw] at h; cases h
    exact accept_event_illegal hw s
  | command i =>
    rw [accept_command hw] at h
    cases i with
    | nop => cases h; exact .ignored (.inl hw)
    | init => cases h; exact .init hw
    | absorb nb d =>
      obtain ⟨-, hwf, -⟩ := decode_command hw
      have hn : NbLegal nb := of_decide_eq_true hwf
      rw [exec_absorb_legal d s hn] at h; cases h
      exact accept_event_gated hw (.inr ⟨nb, d, rfl⟩) fun he hd => .absorb nb d hw hn he hd
    | finalize =>
      cases h
      exact accept_event_gated hw (.inl rfl) fun he hd => .finalize hw he hd
    | readH idx => cases h; exact .readH idx hw

/-- No accepted word acts on the ports. -/
theorem accept_port {w : Cmd64} {s t : State} (h : accept w s = .next t) : t.port = s.port := by
  cases accept_event h <;> rfl

/-- INIT alone writes H or clears DONE (R23, R34). -/
theorem accept_keeps_digest {w : Cmd64} {s t : State} (h : accept w s = .next t) (hw : decode w ≠ .command .init) :
    t.H = s.H ∧ t.DONE = s.DONE := by
  cases accept_event h with
  | init hi => exact absurd hi hw
  | _ => exact ⟨rfl, rfl⟩

end Sys2Proof.Machine
end

section
/-! SUPPORT. The schedule as a recurrence, the circular store, and the compression in progress under a round step. -/

namespace Sys2Proof.Machine

/-! ### The schedule and its circular store -/

/-- The first sixteen words are the native ones (R140). -/
theorem schedule_native (blk : Block) (i : Nat) (h : i < 16) :
    (schedule blk)[i] = nativeWord blk ⟨i, h⟩ := by
  have hs := expanded_stable blk i (by omega) 0 48 (by omega) (by omega) (by omega) (by omega)
  rw [schedule, hs]
  simp [expanded, h]

/-- Every later word is made of four earlier ones (R141). -/
theorem schedule_expand (blk : Block) (n : Nat) (h : n + 16 < 64) :
    (schedule blk)[n + 16] = expandSum (schedule blk)[n] (schedule blk)[n + 1] (schedule blk)[n + 9]
      (schedule blk)[n + 14] := by
  have word (i : Nat) (hi : i < n + 16) : (schedule blk)[i] = (expanded blk n (by omega))[i] :=
    expanded_stable blk i (by omega) n 48 (by omega) (by omega) hi (by omega)
  have last : (schedule blk)[n + 16] = (expanded blk (n + 1) (by omega))[n + 16] :=
    expanded_stable blk (n + 16) h (n + 1) 48 (by omega) (by omega) (by omega) (by omega)
  rw [last, expanded_succ, Vector.getElem_set_self, word n (by omega), word (n + 1) (by omega),
    word (n + 9) (by omega), word (n + 14) (by omega)]

/-- Before round n the circular store holds the last sixteen words made, each in the slot of its index (R145). -/
theorem windowAfter_slot (blk : Block) (n i : Nat) (hi : i < 64) (hmade : i < n ∨ i < 16) (hlast : n ≤ i + 16) :
    (windowAfter blk n)[i % 16] = (schedule blk)[i] := by
  induction n generalizing i with
  | zero =>
    have h16 : i < 16 := by omega
    simp [windowAfter, nativeWords, Nat.mod_eq_of_lt h16, schedule_native blk i h16]
  | succ n ih =>
    rw [windowAfter, windowUpdate]
    split
    · next h16 =>
      by_cases hin : i = n
      · obtain ⟨k, rfl⟩ : ∃ k, n = k + 16 := ⟨n - 16, by omega⟩
        subst hin
        have e0 : (k + 16) % 16 = k % 16 := by omega
        have e1 : (k + 16 + 1) % 16 = (k + 1) % 16 := by omega
        have e9 : (k + 16 + 9) % 16 = (k + 9) % 16 := by omega
        have e14 : (k + 16 + 14) % 16 = (k + 14) % 16 := by omega
        simp only [Vector.getElem_set_self, e0, e1, e9, e14]
        rw [ih k (by omega) (by omega) (by omega), ih (k + 1) (by omega) (by omega) (by omega),
          ih (k + 9) (by omega) (by omega) (by omega), ih (k + 14) (by omega) (by omega) (by omega),
          schedule_expand blk k hi]
      · rw [Vector.getElem_set_ne _ _ (by omega)]
        exact ih i hi (by omega) (by omega)
    · exact ih i hi (by omega) (by omega)

/-! ### Rounds of the compression in progress -/

/-- `n` rounds of the compression of the block in M from H are done, with the schedule store in use in step (R145, R155, R162). -/
structure RoundsDone (n : Nat) (hn : n ≤ 64) (s : State) : Prop where
  work : s.work = firstRounds (schedule s.M) (loadWorking s.H) n hn
  array : s.impl.sched = .array64 → s.W = schedule s.M
  window : s.impl.sched = .window16 → s.Wbuf = windowAfter s.M n

theorem roundsDone_of_compressing {s : State} {t : Fin 64} (h : Compressing s) (hp : s.phase = .round t) :
    RoundsDone t.val (by omega) s :=
  ⟨h.work t hp, fun hs => h.array hs t hp, fun hs => h.window hs t hp⟩

/-- One round is round t of the compression function, whichever store gives it W[t]. -/
theorem roundsDone_oneRound {s : State} {t : Fin 64} (h : RoundsDone t.val (by omega) s) :
    RoundsDone (t.val + 1) (by omega) (oneRound t s) := by
  cases hs : s.impl.sched with
  | array64 =>
    have e : oneRound t s = { s with work := shaRound t s.work s.W[t] } := by simp only [oneRound, hs]
    rw [e]
    refine ⟨?_, h.array, fun hw => nomatch hs.symm.trans hw⟩
    rw [firstRounds_succ, h.array hs, h.work]
    rfl
  | window16 =>
    have e : oneRound t s = { s with
        Wbuf := windowUpdate t s.Wbuf, work := shaRound t s.work (windowUpdate t s.Wbuf)[t.val % 16] } := by
      simp only [oneRound, hs]
    have hbuf : windowUpdate t s.Wbuf = windowAfter s.M (t.val + 1) := by rw [h.window hs]; rfl
    rw [e, hbuf, windowAfter_slot s.M (t.val + 1) t.val t.isLt (by omega) (by omega), h.work]
    exact ⟨rfl, fun hw => (nomatch hs.symm.trans hw), fun _ => rfl⟩

theorem roundsDone_runRounds (n : Nat) {t : Nat} {s : State} (ht : t + n ≤ 64) (h : RoundsDone t (by omega) s) :
    RoundsDone (t + n) ht (runRounds n t s) := by
  induction n generalizing t s with
  | zero => exact h
  | succ n ih =>
    rw [runRounds, dif_pos (by omega)]
    have hrun := ih (t := t + 1) (by omega) (roundsDone_oneRound (t := ⟨t, by omega⟩) h)
    simpa only [Nat.add_right_comm, Nat.add_assoc, Nat.add_comm 1 n] using hrun

/-- An aligned round step does its U rounds, and none too many (R158). -/
theorem roundsDone_roundStep {s : State} {t : Fin 64} (ha : roundsPerStep s.impl.rounds ∣ t.val)
    (h : RoundsDone t.val (by omega) s) :
    RoundsDone (t.val + roundsPerStep s.impl.rounds) (aligned_le ha) (roundStep t s) := by
  obtain ⟨hwork, harray, hwindow⟩ := roundsDone_runRounds _ (aligned_le ha) h
  exact ⟨hwork, harray, hwindow⟩

/-- A round step from an aligned ROUND(t) keeps the compression in progress the one of M from H (R155, R158). -/
theorem compressing_roundStep {s : State} {t : Fin 64} (h : Compressing s) (hp : s.phase = .round t)
    (ha : roundsPerStep s.impl.rounds ∣ t.val) : Compressing (roundStep t s) := by
  have hle := aligned_le ha
  obtain ⟨hwork, harray, hwindow⟩ := roundsDone_roundStep ha (roundsDone_of_compressing h hp)
  refine ⟨fun t' ht' => ?_, fun ht' => ?_, fun hs _ _ => harray hs, fun hs t' ht' => ?_⟩
  · obtain ⟨e, -⟩ := phaseAfter_round ht'
    simpa only [e] using hwork
  · have e := phaseAfter_accum ht'
    have e64 : t.val + roundsPerStep s.impl.rounds = 64 := by omega
    simpa only [e64] using hwork
  · obtain ⟨e, -⟩ := phaseAfter_round ht'
    simpa only [e] using hwindow hs

end Sys2Proof.Machine
end

section
/-! PROOF. The core invariant holds after reset and is kept by every step. -/

namespace Sys2Proof.Machine

/-! ### Where the invariant comes from -/

/-- In a core with no error, no response and DONE = 0, the invariant is what it says of the bytes and of the compression. -/
theorem coreInv_of_working {s : State} (herr : s.ERR = false) (hcode : s.ERRCODE = .none) (hrsp : s.RSP = none)
    (hdone : s.DONE = false) (queueBound : s.Q.length ≤ 72)
    (tailFits : s.FIN = true → (s.p.val + s.Q.length) % 64 = 0)
    (compressingEmpty : s.phase ≠ .idle → s.p = 0)
    (roundAligned : ∀ t : Fin 64, s.phase = .round t → roundsPerStep s.impl.rounds ∣ t.val)
    (lengthWhole : s.L.toNat % 8 = 0)
    (lengthFill : s.FIN = false → (s.p.val + s.Q.length) % 64 = s.L.toNat / 8 % 64)
    (compressing : Compressing s) : CoreInv s where
  queueBound := queueBound
  errCode := by simp [herr, hcode]
  responseQuiet := fun h => absurd hrsp h
  doneQuiet := by simp [hdone]
  errQuiet := by simp [herr]
  tailFits := tailFits
  compressingEmpty := compressingEmpty
  roundAligned := roundAligned
  lengthWhole := lengthWhole
  lengthFill := fun hf _ => lengthFill hf
  compressing := compressing

/-- A fresh core meets the invariant (R175, R245). -/
theorem coreInv_of_fresh {s : State} (h : Fresh s) : CoreInv s :=
  coreInv_of_working h.ERR h.ERRCODE h.RSP h.DONE (by simp [h.Q]) (by simp [h.FIN]) (fun hp => absurd h.phase hp)
    (by simp [h.phase]) (by simp [h.L]) (by simp [h.p, h.Q, h.L]) (compressing_of_idle h.phase)

/-- While BUSY = 1 there is no error, no response, and DONE = 0 (R37, R41, R215). -/
theorem CoreInv.working_of_busy {s : State} (h : CoreInv s) (hb : busy s = true) :
    s.ERR = false ∧ s.ERRCODE = .none ∧ s.RSP = none ∧ s.DONE = false := by
  have herr : s.ERR = false := by
    by_contra hne
    simp [h.errQuiet (by simpa using hne)] at hb
  refine ⟨herr, h.errCode.1 herr, ?_, ?_⟩
  · by_contra hne
    simp [h.responseQuiet hne] at hb
  · by_contra hne
    simp [(h.doneQuiet (by simpa using hne)).1] at hb

/-! ### The engine -/

theorem coreInv_roundStep {s : State} {t : Fin 64} (h : CoreInv s) (hp : s.phase = .round t) :
    CoreInv (roundStep t s) := by
  obtain ⟨herr, hcode, hrsp, hdone⟩ := h.working_of_busy ((busy_eq_true_iff s).2 (.inl (by simp [hp])))
  have hempty : s.p = 0 := h.compressingEmpty (by simp [hp])
  have haligned := h.roundAligned t hp
  refine coreInv_of_working (by simpa) (by simpa) (by simpa) (by simpa) (by simpa using h.queueBound)
    (by simpa using h.tailFits) (by simp [hempty]) (fun t' ht' => ?_) (by simpa using h.lengthWhole)
    (fun hf => by simpa using h.lengthFill (by simpa using hf) hdone) (compressing_roundStep h.compressing hp haligned)
  obtain ⟨e, -⟩ := phaseAfter_round ht'
  rw [e, roundStep_impl]
  exact Nat.dvd_add haligned dvd_rfl

theorem coreInv_accumulateStep {s : State} (h : CoreInv s) (hp : s.phase = .accum) : CoreInv (accumulateStep s) := by
  obtain ⟨herr, hcode, hrsp, hdone⟩ := h.working_of_busy ((busy_eq_true_iff s).2 (.inl (by simp [hp])))
  exact coreInv_of_working herr hcode hrsp hdone h.queueBound h.tailFits (by simp) (by simp) h.lengthWhole
    (fun hf => h.lengthFill hf hdone) (compressing_of_idle rfl)

/-- An append moves one byte from Q to M, so the fill count and the bytes in Q stay together (R127). -/
theorem bufAppend_p (b : Byte) (s : State) : (bufAppend b s).p.val = (s.p.val + 1) % 64 := by
  by_cases h : s.p.val = 63
  · simp [bufAppend_of_last b h, h]
  · rw [bufAppend_of_lt b (by omega)]
    exact (Nat.mod_eq_of_lt (by omega)).symm

/-- After an append to an idle core either it is idle still, or a compression begins with the next block empty (R127, R154). -/
theorem bufAppend_phase {b : Byte} {s : State} (hp : s.phase = .idle) :
    (bufAppend b s).phase = .idle ∨
      (bufAppend b s).phase = .round 0 ∧ (bufAppend b s).p = 0 ∧ Compressing (bufAppend b s) := by
  by_cases h : s.p.val = 63
  · rw [bufAppend_of_last b h]
    exact .inr ⟨startCompression_phase _, startCompression_p _, startCompression_compressing _⟩
  · rw [bufAppend_of_lt b (by omega)]
    exact .inl hp

theorem coreInv_append {s : State} {b : Byte} {q : List Byte} (h : CoreInv s) (hp : s.phase = .idle)
    (hq : s.Q = b :: q) : CoreInv (bufAppend b { s with Q := q }) := by
  obtain ⟨herr, hcode, hrsp, hdone⟩ := h.working_of_busy ((busy_eq_true_iff s).2 (.inr (.inl (by simp [hq]))))
  have hlen : s.Q.length = q.length + 1 := by simp [hq]
  have hbound := h.queueBound
  have hnext : (bufAppend b { s with Q := q }).p.val = (s.p.val + 1) % 64 := bufAppend_p b _
  have hfill : ((bufAppend b { s with Q := q }).p.val + q.length) % 64 = (s.p.val + s.Q.length) % 64 := by
    omega
  have hstart := bufAppend_phase (b := b) (s := { s with Q := q }) hp
  refine coreInv_of_working (by simpa) (by simpa) (by simpa) (by simpa) (by simp; omega) (fun hf => ?_)
    (fun hne => ?_) (fun t ht => ?_) (by simpa using h.lengthWhole) (fun hf => ?_) ?_
  · simp only [bufAppend_FIN, bufAppend_Q] at hf ⊢
    rw [hfill, h.tailFits hf]
  · rcases hstart with hidle | ⟨-, h0, -⟩
    · exact absurd hidle hne
    · exact h0
  · rcases hstart with hidle | ⟨hround, -, -⟩
    · simp [hidle] at ht
    · rw [hround] at ht; cases ht
      exact dvd_zero _
  · simp only [bufAppend_FIN, bufAppend_Q, bufAppend_L] at hf ⊢
    rw [hfill, h.lengthFill hf hdone]
  · rcases hstart with hidle | ⟨-, -, hc⟩
    · exact compressing_of_idle hidle
    · exact hc

/-- The finish step comes with the tail appended whole, so the fill count is 0 (R126, R198). -/
theorem coreInv_finishStep {s : State} (h : CoreInv s) (hp : s.phase = .idle) (hq : s.Q = []) (hf : s.FIN = true) :
    CoreInv (finishStep s) := by
  obtain ⟨herr, hcode, hrsp, -⟩ := h.working_of_busy ((busy_eq_true_iff s).2 (.inr (.inr hf)))
  have hidle : busy (finishStep s) = false := (busy_eq_false_iff _).2 ⟨hp, hq, rfl⟩
  have hempty : s.p = 0 := by
    have hfit := h.tailFits hf
    simp only [hq, List.length_nil] at hfit
    apply Fin.ext
    simp only [Fin.val_zero]
    omega
  exact
    { queueBound := h.queueBound
      errCode := h.errCode
      responseQuiet := fun _ => hidle
      doneQuiet := fun _ => ⟨hidle, hempty⟩
      errQuiet := fun _ => hidle
      tailFits := by simp
      compressingEmpty := fun _ => hempty
      roundAligned := h.roundAligned
      lengthWhole := h.lengthWhole
      lengthFill := by simp
      compressing := compressing_of_idle hp }

theorem coreInv_engineStep {s : State} (h : CoreInv s) : CoreInv (engineStep s) := by
  rcases engineStep_cases s with ⟨t, hp, e⟩ | ⟨hp, e⟩ | ⟨b, q, hp, hq, e⟩ | ⟨hp, hq, hf, e⟩ | ⟨-, e⟩ <;> rw [e]
  · exact coreInv_roundStep h hp
  · exact coreInv_accumulateStep h hp
  · exact coreInv_append h hp hq
  · exact coreInv_finishStep h hp hq hf
  · exact h

/-! ### Commands and responses -/

/-- The response slot of an idle core can be filled or emptied. -/
theorem coreInv_with_response {s : State} (h : CoreInv s) (hb : busy s = false) (r : Option Word32) :
    CoreInv { s with RSP := r } :=
  { h with
    responseQuiet := fun _ => hb
    compressing := compressing_of_idle ((busy_eq_false_iff s).1 hb).1 }

theorem coreInv_takeResponse {s : State} (h : CoreInv s) (hb : busy s = false) (v : Word32) :
    CoreInv (takeResponse v s) :=
  coreInv_withPort _ (coreInv_with_response h hb none)

theorem coreInv_with_error {s : State} (h : CoreInv s) (hb : busy s = false) {c : ErrCode} (hc : c ≠ .none) :
    CoreInv { s with ERR := true, ERRCODE := c } :=
  { h with
    errCode := by simp [hc]
    errQuiet := fun _ => hb
    compressing := compressing_of_idle ((busy_eq_false_iff s).1 hb).1 }

/-- ABSORB adds as many bytes to L as it puts in Q (R124). -/
theorem coreInv_loadMessage {s : State} {nb : BitVec 3} (h : CoreInv s) (hq : quiescent s = true) (hn : NbLegal nb)
    (he : s.ERR = false) (hd : s.DONE = false) (d : Word32) : CoreInv (loadMessage nb d s) := by
  obtain ⟨hp, hQ, hf, hr⟩ := (quiescent_iff s).1 hq
  have hlen := absorbBytes_length nb d
  have hwhole := h.lengthWhole
  have hfill := h.lengthFill hf hd
  have hL : (loadMessage nb d s).L.toNat = (s.L.toNat + 8 * nb.toNat) % 2 ^ 64 := by simp
  rw [hQ, List.length_nil] at hfill
  refine coreInv_of_working he (h.errCode.1 he) hr hd ?_ (by simp [hf]) (fun hne => absurd hp hne) h.roundAligned ?_
    (fun _ => ?_) (compressing_of_idle hp)
  · rw [loadMessage_Q, hlen]
    omega
  · rw [hL]
    omega
  · rw [hL, loadMessage_Q, hlen, loadMessage_p]
    omega

theorem padTail_length (p : Fin 64) (L : BitVec 64) : (padTail p L).length = tailZeros p + 9 := by
  simp [padTail, be64Bytes_length]

/-- FINALIZE puts in Q what fills the last block (R125, R126). -/
theorem coreInv_loadTail {s : State} (h : CoreInv s) (hq : quiescent s = true) (he : s.ERR = false)
    (hd : s.DONE = false) : CoreInv (loadTail s) := by
  obtain ⟨hp, -, -, hr⟩ := (quiescent_iff s).1 hq
  have hlen := padTail_length s.p s.L
  rw [tailZeros] at hlen
  refine coreInv_of_working he (h.errCode.1 he) hr hd ?_ (fun _ => ?_) (fun hne => absurd hp hne) h.roundAligned
    h.lengthWhole (by simp) (compressing_of_idle hp)
  · rw [loadTail_Q, hlen]
    omega
  · rw [loadTail_Q, loadTail_p, hlen]
    omega

/-- A quiescent core keeps the invariant over every accepted word. -/
theorem coreInv_accept {w : Cmd64} {s t : State} (h : CoreInv s) (hq : quiescent s = true)
    (ha : accept w s = .next t) : CoreInv t := by
  have hb : busy s = false := by
    obtain ⟨hp, hQ, hf, -⟩ := (quiescent_iff s).1 hq
    exact (busy_eq_false_iff s).2 ⟨hp, hQ, hf⟩
  cases accept_event ha with
  | ignored => exact h
  | error c hc => exact coreInv_with_error h hb hc
  | init => exact coreInv_of_fresh (fresh_startMessage hq)
  | absorb nb d _ hn he hd => exact coreInv_loadMessage h hq hn he hd d
  | finalize _ he hd => exact coreInv_loadTail h hq he hd
  | readH idx => exact coreInv_with_response h hb (some s.H[idx])

/-- Settles O51: one lemma per event of the step. -/
theorem stepKeepsInv : Obligations.StepKeepsInv := by
  intro s t h hs
  cases step_event hs with
  | reset P => exact coreInv_of_fresh (fresh_resetCore _)
  | hostTurn P => exact coreInv_withPort P h
  | engine => exact coreInv_withPort _ (coreInv_engineStep h)
  | take v _ _ _ hb => exact coreInv_takeResponse (s := turned s) (coreInv_withPort _ h) hb v
  | accept w ws _ _ hb hv _ _ _ ha =>
    have hq : quiescent (withOffers ws (turned s)) = true := by simp [quiescent, turned, hb, hv]
    exact coreInv_accept (coreInv_withPort _ h) hq ha
  | still => exact coreInv_withPort _ h

/-! ### The state after reset -/

theorem fresh_reset : Fresh State.reset := ⟨rfl, rfl, rfl, rfl, rfl, rfl, rfl, rfl, rfl, rfl⟩

/-- A fresh core represents the empty message (R246). -/
theorem represents_nil_of_fresh {s : State} (h : Fresh s) : Represents [] s where
  inv := coreInv_of_fresh h
  length := h.L
  stream := ⟨[], by simp [h.Q, h.FIN, h.DONE], by simp [h.p], by simp [h.p], fun _ => h.H, fun hp => absurd h.phase hp⟩

/-- Settles O52: reset leaves a fresh core. -/
theorem resetMeetsInvariants : Obligations.ResetMeetsInvariants :=
  ⟨coreInv_of_fresh fresh_reset, represents_nil_of_fresh fresh_reset⟩

end Sys2Proof.Machine
end

section
/-! PROOF. No observation depends on unspecified contents: every operation of a step takes two states that no observation tells
apart to two such states. -/

namespace Sys2Proof.Machine

/-! ### What an observation sees -/

theorem SameObservable.busy_eq {s s' : State} (h : SameObservable s s') : busy s = busy s' := by
  simp only [busy, h.phase, h.Q, h.FIN]

theorem SameObservable.statusWord_eq {s s' : State} (h : SameObservable s s') : statusWord s = statusWord s' := by
  simp only [statusWord, statusBits, h.port, h.ERRCODE, h.ERR, h.DONE, h.busy_eq]

theorem SameObservable.cmdReady_eq {s s' : State} (h : SameObservable s s') : cmdReady s = cmdReady s' := by
  simp only [cmdReady, quiescent, h.port, h.RSP, h.busy_eq]

theorem SameObservable.rspValid_eq {s s' : State} (h : SameObservable s s') : rspValid s = rspValid s' := by
  simp only [rspValid, h.port, h.RSP]

/-! ### Reset and commands -/

theorem sameObservable_resetCore {s s' : State} (h : SameObservable s s') :
    SameObservable (resetCore s) (resetCore s') :=
  { h with
    H := rfl, L := rfl, p := rfl, Q := rfl, FIN := rfl, phase := rfl, DONE := rfl, ERR := rfl, ERRCODE := rfl, RSP := rfl
    M := fun _ hj => absurd hj (Nat.not_lt_zero _)
    work := fun hp => absurd rfl hp
    W := fun hp => absurd rfl hp
    Wbuf := fun hp => absurd rfl hp }

theorem sameObservable_startMessage {s s' : State} (h : SameObservable s s') :
    SameObservable (startMessage s) (startMessage s') :=
  { h with
    H := rfl, L := rfl, p := rfl, DONE := rfl, ERR := rfl, ERRCODE := rfl
    M := fun _ hj => absurd hj (Nat.not_lt_zero _) }

theorem sameObservable_loadMessage (nb : BitVec 3) (d : Word32) {s s' : State} (h : SameObservable s s') :
    SameObservable (loadMessage nb d s) (loadMessage nb d s') :=
  { h with
    L := by simp [h.L]
    Q := rfl }

theorem sameObservable_loadTail {s s' : State} (h : SameObservable s s') :
    SameObservable (loadTail s) (loadTail s') :=
  { h with
    Q := by simp [h.p, h.L]
    FIN := rfl }

theorem sameObservable_with_response (r : Option Word32) {s s' : State} (h : SameObservable s s') :
    SameObservable { s with RSP := r } { s' with RSP := r } :=
  { h with RSP := rfl }

theorem sameObservable_raiseError (c : ErrCode) {s s' : State} (h : SameObservable s s') :
    SameObservable (raiseError c s) (raiseError c s') := by
  rw [raiseError_eq, raiseError_eq]
  exact { h with ERR := rfl, ERRCODE := by simp [h.ERR, h.ERRCODE] }

theorem sameObservable_gated {f : State → State} {s s' : State} (h : SameObservable s s')
    (hf : SameObservable (f s) (f s')) : SameObservable (gated f s) (gated f s') := by
  unfold gated
  rw [← h.ERR, ← h.DONE]
  split
  · exact h
  · split
    · exact sameObservable_raiseError .sequence h
    · exact hf

theorem sameObservable_exec (i : Instr) {s s' : State} (h : SameObservable s s') :
    ∃ t t', exec i s = .next t ∧ exec i s' = .next t' ∧ SameObservable t t' := by
  cases i with
  | nop => exact ⟨s, s', rfl, rfl, h⟩
  | init => exact ⟨_, _, rfl, rfl, sameObservable_startMessage h⟩
  | absorb nb d =>
    by_cases hn : NbLegal nb
    · exact ⟨_, _, exec_absorb_legal d s hn, exec_absorb_legal d s' hn,
        sameObservable_gated h (sameObservable_loadMessage nb d h)⟩
    · exact ⟨_, _, exec_absorb_illegal d s hn, exec_absorb_illegal d s' hn, sameObservable_raiseError .badNb h⟩
  | finalize => exact ⟨_, _, rfl, rfl, sameObservable_gated h (sameObservable_loadTail h)⟩
  | readH idx =>
    refine ⟨_, _, exec_readH idx s, exec_readH idx s', ?_⟩
    rw [h.H]
    exact sameObservable_with_response _ h

theorem sameObservable_accept (w : Cmd64) {s s' : State} (h : SameObservable s s') :
    ∃ t t', accept w s = .next t ∧ accept w s' = .next t' ∧ SameObservable t t' := by
  cases hw : decode w with
  | illegal c => exact ⟨_, _, accept_illegal hw s, accept_illegal hw s', sameObservable_raiseError c h⟩
  | command i =>
    rw [accept_command hw, accept_command hw]
    exact sameObservable_exec i h

/-! ### The engine -/

/-- A round reads the scratch in use, which is the same in both during a compression. -/
theorem sameObservable_oneRound (t : Fin 64) {s s' : State} (h : SameObservable s s') (hp : s.phase ≠ .idle) :
    SameObservable (oneRound t s) (oneRound t s') := by
  have hwork := h.work hp
  cases hs : s.impl.sched with
  | array64 =>
    have hs' : s'.impl.sched = .array64 := h.impl ▸ hs
    simp only [oneRound, hs, hs']
    exact { h with work := fun _ => by rw [hwork, h.W hp hs] }
  | window16 =>
    have hs' : s'.impl.sched = .window16 := h.impl ▸ hs
    simp only [oneRound, hs, hs']
    exact { h with
      work := fun _ => by rw [hwork, h.Wbuf hp hs]
      Wbuf := fun _ _ => by rw [h.Wbuf hp hs] }

theorem sameObservable_runRounds (n t : Nat) {s s' : State} (h : SameObservable s s') (hp : s.phase ≠ .idle) :
    SameObservable (runRounds n t s) (runRounds n t s') := by
  induction n generalizing t s s' with
  | zero => exact h
  | succ n ih =>
    unfold runRounds
    split
    · exact ih _ (sameObservable_oneRound _ h hp) (by rwa [oneRound_eq])
    · exact h

theorem sameObservable_roundStep (t : Fin 64) {s s' : State} (h : SameObservable s s') (hp : s.phase ≠ .idle) :
    SameObservable (roundStep t s) (roundStep t s') := by
  have hrun := sameObservable_runRounds (roundsPerStep s.impl.rounds) t.val h hp
  have hphase : (runRounds (roundsPerStep s.impl.rounds) t.val s).phase ≠ .idle := by rwa [runRounds_eq]
  unfold roundStep
  rw [← h.impl]
  exact { hrun with
    phase := rfl
    work := fun _ => hrun.work hphase
    W := fun _ => hrun.W hphase
    Wbuf := fun _ => hrun.Wbuf hphase }

theorem sameObservable_accumulateStep {s s' : State} (h : SameObservable s s') (hp : s.phase ≠ .idle) :
    SameObservable (accumulateStep s) (accumulateStep s') :=
  { h with
    H := by simp [h.H, h.work hp]
    phase := rfl
    work := fun hne => absurd rfl hne
    W := fun hne => absurd rfl hne
    Wbuf := fun hne => absurd rfl hne }

/-- StartCompression loads the scratch in use from H and M alone. -/
theorem sameObservable_startCompression {s s' : State} (h : SameObservable s s') (hM : s.M = s'.M) :
    SameObservable (startCompression s) (startCompression s') := by
  cases hs : s.impl.sched with
  | array64 =>
    have hs' : s'.impl.sched = .array64 := h.impl ▸ hs
    simp only [startCompression, hs, hs']
    exact { h with
      phase := rfl
      work := fun _ => by rw [h.H]
      W := fun _ _ => by rw [hM]
      Wbuf := fun _ hw => nomatch hs.symm.trans hw }
  | window16 =>
    have hs' : s'.impl.sched = .window16 := h.impl ▸ hs
    simp only [startCompression, hs, hs']
    exact { h with
      phase := rfl
      work := fun _ => by rw [h.H]
      W := fun _ hw => nomatch hs.symm.trans hw
      Wbuf := fun _ _ => by rw [hM] }

/-- The byte appended joins those below p, which were the same already. -/
theorem set_agrees_up_to {M M' : Block} {p p' : Fin 64} (b : Byte) (hp : p = p')
    (h : ∀ j : Fin 64, j.val < p.val → M[j] = M'[j]) (j : Fin 64) (hj : j.val ≤ p.val) :
    (M.set p.val b)[j] = (M'.set p'.val b)[j] := by
  subst hp
  by_cases hjp : j = p
  · subst hjp; simp
  · have hlt : j.val < p.val := by omega
    have hne : p.val ≠ j.val := by omega
    simpa [Vector.getElem_set_ne _ _ hne] using h j hlt

theorem sameObservable_bufAppend (b : Byte) {s s' : State} (h : SameObservable s s') (hp : s.phase = .idle) :
    SameObservable (bufAppend b s) (bufAppend b s') := by
  have hset := set_agrees_up_to b h.p h.M
  by_cases hlast : s.p.val = 63
  · have hlast' : s'.p.val = 63 := h.p ▸ hlast
    have hM : s.M.set s.p.val b = s'.M.set s'.p.val b :=
      Vector.ext fun j hj => hset ⟨j, hj⟩ (by simp only [hlast]; omega)
    rw [bufAppend_of_last b hlast, bufAppend_of_last b hlast']
    exact sameObservable_startCompression
      { h with
        p := rfl
        M := fun _ hj => absurd hj (Nat.not_lt_zero _) } hM
  · have hlt : s.p.val < 63 := by omega
    have hlt' : s'.p.val < 63 := h.p ▸ hlt
    rw [bufAppend_of_lt b hlt, bufAppend_of_lt b hlt']
    exact
      { h with
        p := by simp [h.p]
        M := fun j hj => hset j (Nat.le_of_lt_succ hj)
        work := fun hne => absurd hp hne
        W := fun hne => absurd hp hne
        Wbuf := fun hne => absurd hp hne }

theorem sameObservable_finishStep {s s' : State} (h : SameObservable s s') :
    SameObservable (finishStep s) (finishStep s') :=
  { h with DONE := rfl, FIN := rfl }

theorem sameObservable_engineStep {s s' : State} (h : SameObservable s s') :
    SameObservable (engineStep s) (engineStep s') := by
  rcases engineStep_cases s with ⟨t, hp, e⟩ | ⟨hp, e⟩ | ⟨b, q, hp, hq, e⟩ | ⟨hp, hq, hf, e⟩ | ⟨hb, e⟩ <;> rw [e]
  · rw [engineStep_round (h.phase ▸ hp)]
    exact sameObservable_roundStep t h (by simp [hp])
  · rw [engineStep_accum (h.phase ▸ hp)]
    exact sameObservable_accumulateStep h (by simp [hp])
  · rw [engineStep_append (h.phase ▸ hp) (h.Q ▸ hq)]
    exact sameObservable_bufAppend b { h with Q := rfl } hp
  · rw [engineStep_finish (h.phase ▸ hp) (h.Q ▸ hq) (h.FIN ▸ hf)]
    exact sameObservable_finishStep h
  · rw [engineStep_of_not_busy (h.busy_eq ▸ hb)]
    exact h

/-! ### The step -/

theorem sameObservable_takeResponse (v : Word32) {s s' : State} (h : SameObservable s s') :
    SameObservable (takeResponse v s) (takeResponse v s') :=
  { h with RSP := rfl, port := by simp [h.port] }

theorem sameObservable_withOffers (l : List Cmd64) {s s' : State} (h : SameObservable s s') :
    SameObservable (withOffers l s) (withOffers l s') :=
  { h with port := by simp [h.port] }

theorem sameObservable_withPlan (l : List HostTurn) {s s' : State} (h : SameObservable s s') :
    SameObservable (withPlan l s) (withPlan l s') :=
  { h with port := by simp [h.port] }

theorem sameObservable_readStatus {s s' : State} (h : SameObservable s s') :
    SameObservable (readStatus s) (readStatus s') :=
  { h with port := by simp [h.port, h.statusWord_eq] }

theorem sameObservable_heldInReset {s s' : State} (h : SameObservable s s') :
    SameObservable (heldInReset s) (heldInReset s') := by
  unfold heldInReset
  rw [← h.port]
  split
  · exact sameObservable_resetCore h
  · exact h

/-- Two states that no observation tells apart have the same event next. -/
theorem sameObservable_coreStep {s s' : State} (h : SameObservable s s') :
    ∃ t t', coreStep s = .next t ∧ coreStep s' = .next t' ∧ SameObservable t t' := by
  unfold coreStep
  rw [← h.port, ← h.busy_eq, ← h.RSP]
  split
  · exact ⟨_, _, rfl, rfl, sameObservable_resetCore h⟩
  · split
    · exact ⟨_, _, rfl, rfl, sameObservable_engineStep h⟩
    · split
      · next v _ =>
        split
        · exact ⟨_, _, rfl, rfl, sameObservable_takeResponse v h⟩
        · exact ⟨_, _, rfl, rfl, h⟩
      · next w ws _ _ => exact sameObservable_accept w (sameObservable_withOffers ws h)
      · exact ⟨_, _, rfl, rfl, h⟩

theorem sameObservable_hostStep (turn : HostTurn) {s s' : State} (h : SameObservable s s') :
    ∃ t t', hostStep turn s = .next t ∧ hostStep turn s' = .next t' ∧ SameObservable t t' := by
  cases turn with
  | core => exact sameObservable_coreStep h
  | readStatus => exact ⟨_, _, rfl, rfl, sameObservable_heldInReset (sameObservable_readStatus h)⟩
  | driveRst level =>
    refine ⟨_, _, rfl, rfl, sameObservable_heldInReset ?_⟩
    rw [h.port]
    exact sameObservable_withPort _ h
  | driveRspReady level =>
    refine ⟨_, _, rfl, rfl, sameObservable_heldInReset ?_⟩
    rw [h.port]
    exact sameObservable_withPort _ h
  | offer w =>
    refine ⟨_, _, rfl, rfl, sameObservable_heldInReset ?_⟩
    rw [h.port]
    exact sameObservable_withOffers _ h

theorem sameObservable_step {s s' : State} (h : SameObservable s s') :
    ∃ t t', step s = .next t ∧ step s' = .next t' ∧ SameObservable t t' := by
  unfold step
  rw [← h.port]
  split
  · exact sameObservable_coreStep h
  · next turn rest _ => exact sameObservable_hostStep turn (sameObservable_withPlan rest h)

/-- Settles O57: the step is a function of the outcome, and every event keeps the relation. -/
theorem unspecifiedContentsAreNotObservable : Obligations.UnspecifiedContentsAreNotObservable := by
  intro s s' t t' h hs hs'
  obtain ⟨r, r', hr, hr', hsame⟩ := sameObservable_step h
  cases hs.symm.trans hr
  cases hs'.symm.trans hr'
  exact ⟨hsame, hsame.statusWord_eq, hsame.cmdReady_eq, hsame.rspValid_eq⟩

end Sys2Proof.Machine
end

section
/-! PROOF. What the engine and every step leave unchanged: H, DONE and the offered commands. -/

namespace Sys2Proof.Machine

/-! ### The engine -/

/-- H is written by the accumulate step alone (R23). -/
theorem engineStep_H {s : State} (h : s.phase ≠ .accum) : (engineStep s).H = s.H := by
  rcases engineStep_cases s with ⟨t, -, e⟩ | ⟨hp, -⟩ | ⟨b, q, -, -, e⟩ | ⟨-, -, -, e⟩ | ⟨-, e⟩
  · simp [e]
  · exact absurd hp h
  · simp [e]
  · simp [e]
  · rw [e]

/-- FIN and DONE are written by the finish step alone (R198). -/
theorem engineStep_FIN_DONE {s : State} (h : s.phase ≠ .idle ∨ s.Q ≠ [] ∨ s.FIN = false) :
    (engineStep s).FIN = s.FIN ∧ (engineStep s).DONE = s.DONE := by
  rcases engineStep_cases s with ⟨t, -, e⟩ | ⟨-, e⟩ | ⟨b, q, -, -, e⟩ | ⟨hp, hq, hf, -⟩ | ⟨-, e⟩
  · simp [e]
  · simp [e]
  · simp [e]
  · simp [hp, hq, hf] at h
  · simp [e]

/-- No engine step writes L, the error record, the response or the ports (R37, R44). -/
theorem engineStep_frame (s : State) :
    (engineStep s).L = s.L ∧ (engineStep s).ERR = s.ERR ∧ (engineStep s).ERRCODE = s.ERRCODE ∧
    (engineStep s).RSP = s.RSP ∧ (engineStep s).port = s.port ∧ (engineStep s).impl = s.impl := by
  rcases engineStep_cases s with ⟨t, -, e⟩ | ⟨-, e⟩ | ⟨b, q, -, -, e⟩ | ⟨-, -, -, e⟩ | ⟨-, e⟩ <;> simp [e]

/-- Settles O36. -/
theorem engineFrame : Obligations.EngineFrame := by
  intro s
  obtain ⟨hL, hE, hC, hR, hP, hI⟩ := engineStep_frame s
  exact ⟨hL, hE, hC, hR, hP, hI, engineStep_FIN_DONE, engineStep_H⟩

/-! ### The offered commands -/

/-- A word accepted is the first the host offers, and `cmd_ready` = 1 (R41). -/
theorem accepted_eq_some {s : State} {w : Cmd64} (h : accepted s = some w) :
    cmdReady s = true ∧ s.port.offers.head? = some w := by
  unfold accepted at h
  split at h
  · next hc =>
    rw [Bool.and_eq_true] at hc
    exact ⟨hc.2, h⟩
  · cases h

/-- The offers after a step that accepts a word (R41). -/
theorem step_offers_of_accepted {s t : State} {w : Cmd64} (h : step s = .next t) (ha : accepted s = some w) :
    s.port.offers = w :: t.port.offers := by
  cases step_event h with
  | accept w' ws _ _ _ _ _ ha' ho hacc =>
    cases ha.symm.trans ha'
    rw [ho, accept_port hacc]
    rfl
  | reset _ _ ha' | hostTurn _ _ ha' | engine _ ha' | take _ _ ha' | still _ ha' => cases ha.symm.trans ha'

/-- The offers after a step that accepts none: those there were, or the host's next behind them (R41). -/
theorem step_offers_of_not_accepted {s t : State} (h : step s = .next t) (ha : accepted s = none) :
    t.port.offers = s.port.offers ∨ ∃ w rest, s.port.plan = .offer w :: rest ∧ t.port.offers = s.port.offers ++ [w] := by
  cases step_event h with
  | reset P _ _ _ _ _ _ ho => exact ho
  | hostTurn P _ _ _ _ _ _ ho => exact ho
  | engine =>
    obtain ⟨-, -, -, -, hport, -⟩ := engineStep_frame s
    exact .inl (by simp [hport])
  | take => exact .inl rfl
  | accept w ws _ _ _ _ _ ha' => cases ha.symm.trans ha'
  | still => exact .inl rfl

/-- Settles O44. -/
theorem offeredCommandIsHeld : Obligations.OfferedCommandIsHeld := by
  intro s t h
  refine ⟨cmdReady_iff s, fun w ha => ?_, step_offers_of_not_accepted h⟩
  obtain ⟨hready, -⟩ := accepted_eq_some ha
  exact ⟨hready, step_offers_of_accepted h ha⟩

/-! ### H and DONE -/

/-- Settles O48: reset, the accumulate step and INIT are the only events that write H. -/
theorem hashStateWriters : Obligations.HashStateWriters := by
  intro s t h hH
  cases step_event h with
  | reset P hr => exact .inl hr
  | hostTurn => exact absurd rfl hH
  | engine =>
    refine .inr (.inl ?_)
    by_contra hp
    exact hH (engineStep_H hp)
  | take => exact absurd rfl hH
  | accept w ws _ _ _ _ _ ha _ hacc =>
    refine .inr (.inr ⟨w, ha, ?_⟩)
    by_contra hw
    obtain ⟨e, -⟩ := accept_keeps_digest hacc hw
    exact hH e
  | still => exact absurd rfl hH

/-- Without reset and INIT, an idle core keeps H and DONE. -/
theorem step_keeps_digest {s t : State} (h : step s = .next t) (hb : busy s = false) (hr : resetting s = false)
    (hw : ∀ w, accepted s = some w → decode w ≠ .command .init) : t.H = s.H ∧ t.DONE = s.DONE := by
  cases step_event h with
  | reset P hr' => simp [hr] at hr'
  | hostTurn => exact ⟨rfl, rfl⟩
  | engine _ _ _ hb' => simp [hb] at hb'
  | take => exact ⟨rfl, rfl⟩
  | accept w ws _ _ _ _ _ ha _ hacc =>
    obtain ⟨hH, hD⟩ := accept_keeps_digest hacc (hw w ha)
    exact ⟨hH, hD⟩
  | still => exact ⟨rfl, rfl⟩

/-- Settles O49: DONE = 1 means the engine is idle, and only INIT among the commands writes H or DONE. -/
theorem digestIsImmutable : Obligations.DigestIsImmutable := by
  intro s t hinv hd h hr hw
  obtain ⟨hb, -⟩ := hinv.doneQuiet hd
  obtain ⟨hH, hD⟩ := step_keeps_digest h hb hr hw
  exact ⟨hH, hD.trans hd⟩

/-- Settles O54: with the engine idle all bytes of the message, or of its padding, are in the hash. -/
theorem doneMeansDigest : Obligations.DoneMeansDigest := by
  intro s m h
  obtain ⟨sent, hstream, hp, -, hH, -⟩ := h.stream
  refine ⟨fun hd => ?_, fun hd hb => ?_⟩
  · obtain ⟨hb, -⟩ := h.inv.doneQuiet hd
    obtain ⟨hidle, hQ, -⟩ := (busy_eq_false_iff s).1 hb
    have hsent : sent = pad m := by simpa [hQ, hd] using hstream
    rw [hH hidle, hsent, digestState]
  · obtain ⟨hidle, hQ, hf⟩ := (busy_eq_false_iff s).1 hb
    have hsent : sent = m := by simpa [hQ, hd, hf] using hstream
    exact ⟨hsent ▸ hH hidle, hsent ▸ hp⟩

end Sys2Proof.Machine
end

section
/-! PROOF. The state after reset, the status word, and the host's turns that read it or take a response. -/

namespace Sys2Proof.Machine

/-! ### The state after reset -/

/-- Settles O39: no error and DONE = 0 after reset, so the gate lets ABSORB through. -/
theorem resetStateReadyToAbsorb : Obligations.ResetStateReadyToAbsorb := by
  refine ⟨fun _ => rfl, rfl, fun nb d hn => ?_⟩
  have hgate : gated (loadMessage nb d) State.reset = loadMessage nb d State.reset := gated_of_open _ rfl rfl
  exact ⟨_, exec_absorb_legal d State.reset hn, by rw [hgate, loadMessage_Q]⟩

/-- BUSY and the status word at reset (R33, R36). -/
theorem reset_idle : busy State.reset = false ∧ statusWord State.reset = 0 := by decide

/-- Settles O40. -/
theorem resetStateValues : Obligations.ResetStateValues :=
  ⟨fresh_reset.H, fresh_reset.L, fresh_reset.p, fresh_reset.Q, fresh_reset.FIN, fresh_reset.phase, fresh_reset.DONE,
   fresh_reset.ERR, fresh_reset.ERRCODE, fresh_reset.RSP, reset_idle⟩

/-! ### The status word -/

/-- Every bit of the status word, `rst` released (R36). -/
theorem statusWord_bit {s : State} (hr : s.port.rst = false) (i : Nat) :
    (statusWord s).getLsbD i =
      if i = 0 then busy s else if i = 1 then s.DONE else if i = 2 then s.ERR else if i = 3 then false
      else s.ERRCODE.bits.getLsbD (i - 4) := by
  have hword : statusWord s = statusBits s := by simp [statusWord, hr]
  rw [hword, statusBits]
  simp only [BitVec.getLsbD_setWidth, BitVec.getLsbD_append, BitVec.getLsbD_ofBool]
  rcases i with _ | _ | _ | _ | i
  · simp
  · simp
  · simp
  · simp
  · have hcode : s.ERRCODE.bits.getLsbD i = true → i + 4 < 32 := fun hi => by
      have hi3 := BitVec.lt_of_getLsbD hi
      omega
    simpa using hcode

/-- Settles O42. -/
theorem statusWordLayout : Obligations.StatusWordLayout := by
  obtain ⟨hbusy, hword⟩ := reset_idle
  refine ⟨fun s => ⟨busy_eq_true_iff s, by simp [quiescent]⟩, hbusy, hword, fun s hr => ?_, rfl, rfl, rfl, rfl, rfl⟩
  have bit := statusWord_bit hr
  refine ⟨bit 0, bit 1, bit 2, bit 3, ?_, fun i hi => ?_⟩
  · apply BitVec.eq_of_getLsbD_eq
    intro i hi
    have hlow : 4 + i ≠ 0 ∧ 4 + i ≠ 1 ∧ 4 + i ≠ 2 ∧ 4 + i ≠ 3 := by omega
    simp [bit, hi, hlow]
  · have hlow : i ≠ 0 ∧ i ≠ 1 ∧ i ≠ 2 ∧ i ≠ 3 := by omega
    have hhigh : s.ERRCODE.bits.getLsbD (i - 4) = false := BitVec.getLsbD_of_ge _ _ (by omega)
    simp [bit, hlow, hhigh]

/-! ### The host's turns -/

/-- Settles O43: the turn changes the ports alone, and with `rst` asserted the reset of that step follows it. -/
theorem statusReadHasNoSideEffect : Obligations.StatusReadHasNoSideEffect := by
  intro s rest hplan
  have hstep : step s = .next (heldInReset (readStatus (withPlan rest s))) := by
    simp only [step, hplan, hostStep]
  refine ⟨fun hr => ?_, fun hr => ?_⟩
  · rw [hstep, heldInReset_of_no_rst (by simpa using hr)]
    rfl
  · rw [hstep, heldInReset_of_rst (by simpa using hr)]
    refine ⟨_, rfl, fresh_resetCore _, ?_⟩
    simp [statusWord_of_rst (s := withPlan rest s) hr]

/-- Settles O45. -/
theorem responseIsTaken : Obligations.ResponseIsTaken := by
  intro s v hc hb hv hr hy
  have hvalid : rspValid s = true := by simp [rspValid, hv, hr]
  have hstep : step s = .next (takeResponse v (turned s)) := by
    obtain ⟨hs, -⟩ := step_of_core hc
    rw [hs]
    simp [coreStep, turned, hr, hb, hv, hy]
  exact ⟨hvalid, by simp [rspWord, hvalid, hv], _, hstep, rfl, rfl, rfl⟩

end Sys2Proof.Machine
end

section
/-! PROOF. The decoder and the encoder agree, on every word and on every command (R70 to R80). -/

namespace Sys2Proof

/-! ### Reading back an encoded command -/

/-- The command with the DATA of its word put in; only ABSORB keeps it (R74). -/
def Instr.withData (d : Word32) : Instr → Instr
  | .absorb nb _ => .absorb nb d
  | i => i

@[simp] theorem Instr.withData_data (i : Instr) : i.withData i.data = i := by cases i <;> rfl

/-- A word with the OP and ARG of a well-formed command, RSV = 0 and any DATA decodes to that command (R74, R76). -/
theorem decode_enc {i : Instr} (h : i.WellFormed) (d : Word32) :
    decode (enc i.op i.arg d) = .command (i.withData d) := by
  cases i with
  | nop => simp [decode, Instr.op, Instr.arg, Instr.withData]
  | init => simp [decode, Instr.op, Instr.arg, Instr.withData]
  | absorb nb d' =>
    obtain ⟨hpos, hle⟩ : NbLegal nb := of_decide_eq_true h
    have hne : nb ≠ 0#3 := by rintro rfl; simp at hpos
    simp [decode, Instr.op, Instr.arg, Instr.withData, hne, hle]
  | finalize => simp [decode, Instr.op, Instr.arg, Instr.withData]
  | readH idx => simp [decode, Instr.op, Instr.arg, Instr.withData]

/-- The assembler's word is the one with its own DATA (R79). -/
theorem decode_encode {i : Instr} (h : i.WellFormed) : decode (encode i) = .command i := by
  rw [encode, decode_enc h, Instr.withData_data]

/-- Settles O4. -/
theorem decodeOfEncodeIsIdentity : Obligations.DecodeOfEncodeIsIdentity := fun _ h => decode_encode h

/-! ### Encoding a decoded word -/

/-- Bits 31:0 of a command's word, which hold no DATA (R70). -/
def Instr.lowHalf (i : Instr) : BitVec 32 := 0#25 ++ i.arg ++ i.op

@[simp] theorem Instr.lowHalf_withData (i : Instr) (d : Word32) : (i.withData d).lowHalf = i.lowHalf := by
  cases i <;> rfl

theorem Instr.setWidth_enc (i : Instr) (d : Word32) : (enc i.op i.arg d).setWidth 32 = i.lowHalf := by
  apply BitVec.eq_of_getLsbD_eq
  intro j hj
  rw [Instr.lowHalf, BitVec.getLsbD_setWidth, enc_bit, BitVec.getLsbD_append, BitVec.getLsbD_append]
  by_cases hop : j < 4
  · simp [hj, hop]
  · by_cases harg : j < 7
    · have harg' : j - 4 < 3 := by omega
      simp [hj, hop, harg, harg']
    · have harg' : ¬ j - 4 < 3 := by omega
      simp [hj, hop, harg, harg']

/-- A word that decodes is made of its command's fields and its own DATA. -/
theorem eq_enc_of_decode {w : Cmd64} {i : Instr} (h : decode w = .command i) :
    w = enc i.op i.arg (dataField w) := by
  obtain ⟨hrsv, -, hop, harg, -⟩ := decode_command h
  rw [← hop, ← harg, enc_fields w hrsv]

theorem setWidth_of_decode {w : Cmd64} {i : Instr} (h : decode w = .command i) :
    w.setWidth 32 = i.lowHalf := by
  rw [eq_enc_of_decode h, i.setWidth_enc]

/-- For ABSORB no bit of the word is lost (R79). -/
theorem encode_of_decode_absorb {w : Cmd64} {nb : BitVec 3} {d : Word32} (h : decode w = .command (.absorb nb d)) :
    encode (.absorb nb d) = w := by
  obtain ⟨-, -, -, -, hdata⟩ := decode_command h
  conv_rhs => rw [eq_enc_of_decode h, hdata ⟨nb, d, rfl⟩]
  rfl

/-- Settles O5. -/
theorem encodeOfDecodeKeepsWord : Obligations.EncodeOfDecodeKeepsWord := by
  intro w i h
  obtain ⟨-, hwf, -⟩ := decode_command h
  refine ⟨hwf, ?_, ?_⟩
  · rw [setWidth_of_decode h, encode, i.setWidth_enc]
  · rintro ⟨nb, d, rfl⟩
    exact encode_of_decode_absorb h

/-! ### The legal low halves -/

/-- A word is put together from its two halves. -/
theorem append_halves (w : Cmd64) : dataField w ++ w.setWidth 32 = w := by
  apply BitVec.eq_of_getLsbD_eq
  intro i hi
  rw [BitVec.getLsbD_append]
  split
  · next hlow => simp [hlow]
  · next hlow =>
    have hi' : i - 32 < 32 := by omega
    simp [dataField, hi', Nat.add_sub_cancel' (Nat.le_of_not_lt hlow)]

/-- Two words with the same low half differ in DATA alone, so a word with a well-formed command's low half decodes. -/
theorem decode_of_setWidth {w : Cmd64} {i : Instr} (hwf : i.WellFormed) (h : w.setWidth 32 = i.lowHalf) :
    decode w = .command (i.withData (dataField w)) := by
  have hw : w = enc i.op i.arg (dataField w) := by
    have hhigh : dataField (enc i.op i.arg (dataField w)) = dataField w := dataField_enc _ _ _
    calc w = dataField w ++ w.setWidth 32 := (append_halves w).symm
      _ = dataField (enc i.op i.arg (dataField w)) ++ (enc i.op i.arg (dataField w)).setWidth 32 := by
        rw [hhigh, i.setWidth_enc, h]
      _ = enc i.op i.arg (dataField w) := append_halves _
  rw [hw, decode_enc hwf, dataField_enc]

/-- The well-formed commands, with DATA = 0 (R77). -/
def legalCommands : List Instr :=
  [.nop, .init, .absorb 1 0, .absorb 2 0, .absorb 3 0, .absorb 4 0, .finalize,
   .readH 0, .readH 1, .readH 2, .readH 3, .readH 4, .readH 5, .readH 6, .readH 7]

theorem wellFormed_of_mem_legalCommands : ∀ i ∈ legalCommands, i.WellFormed := by decide

theorem withData_mem_legalCommands {i : Instr} (h : i.WellFormed) : i.withData 0 ∈ legalCommands := by
  cases i with
  | nop => decide
  | init => decide
  | absorb nb d =>
    have hall : ∀ nb : BitVec 3, NbLegal nb → Instr.absorb nb 0 ∈ legalCommands := by decide
    exact hall nb (of_decide_eq_true h)
  | finalize => decide
  | readH idx =>
    have hall : ∀ idx : Fin 8, Instr.readH idx ∈ legalCommands := by decide
    exact hall idx

/-- Settles O6: the low halves listed are those of the fifteen commands, and DATA does not enter them. -/
theorem fifteenLegalLowHalves : Obligations.FifteenLegalLowHalves := by
  refine ⟨legalCommands.map Instr.lowHalf, rfl, by decide, by decide, fun w => ?_⟩
  rw [List.mem_map]
  constructor
  · rintro ⟨i, h⟩
    obtain ⟨-, hwf, -⟩ := decode_command h
    exact ⟨_, withData_mem_legalCommands hwf, by rw [Instr.lowHalf_withData, setWidth_of_decode h]⟩
  · rintro ⟨i, hi, h⟩
    exact ⟨_, decode_of_setWidth (wellFormed_of_mem_legalCommands i hi) h.symm⟩

/-! ### The codes of the illegal words -/

/-- The verdict on a word, by the first test of R76 that fails. -/
theorem decode_cases (w : Cmd64) :
    (5 ≤ (opField w).toNat ∧ decode w = .illegal .illegalOp) ∨
    ((opField w).toNat < 5 ∧
      (rsvField w ≠ 0 ∨ ((opField w = 0 ∨ opField w = 1 ∨ opField w = 3) ∧ argField w ≠ 0)) ∧
      decode w = .illegal .reserved) ∨
    (opField w = 2 ∧ rsvField w = 0 ∧ (argField w = 0 ∨ 4 < (argField w).toNat) ∧ decode w = .illegal .badNb) ∨
    ((opField w).toNat < 5 ∧
      ¬ (rsvField w ≠ 0 ∨ ((opField w = 0 ∨ opField w = 1 ∨ opField w = 3) ∧ argField w ≠ 0)) ∧
      ¬ (opField w = 2 ∧ (argField w = 0 ∨ 4 < (argField w).toNat)) ∧ ∃ i, decode w = .command i) := by
  unfold decode
  simp only
  split_ifs with hop hrsv harg hnb
  · exact .inl ⟨hop, rfl⟩
  · exact .inr (.inl ⟨by omega, .inl hrsv, rfl⟩)
  · exact .inr (.inl ⟨by omega, .inr harg, rfl⟩)
  · obtain ⟨hop2, hnb⟩ := hnb
    exact .inr (.inr (.inl ⟨hop2, not_not.1 hrsv, hnb, rfl⟩))
  all_goals exact .inr (.inr (.inr ⟨by omega, not_or.2 ⟨hrsv, harg⟩, hnb, _, rfl⟩))

/-- The values of NB above 4 (R73). -/
theorem four_lt_iff (nb : BitVec 3) : 4 < nb.toNat ↔ nb = 5 ∨ nb = 6 ∨ nb = 7 := by
  revert nb
  decide

/-- Settles O7: the tests of `decode_cases` exclude each other. -/
theorem illegalCodesByPriority : Obligations.IllegalCodesByPriority := by
  intro w
  rw [← four_lt_iff]
  rcases decode_cases w with ⟨hop, e⟩ | ⟨hop, hres, e⟩ | ⟨hop, hrsv, hnb, e⟩ | ⟨hop, hres, hnb, i, e⟩ <;> rw [e]
  · have hop2 : opField w ≠ 2 := fun h => by simp [h] at hop
    exact ⟨iff_of_true rfl hop, iff_of_false nofun (by omega), iff_of_false nofun fun ⟨h2, _⟩ => hop2 h2,
      nofun, nofun⟩
  · have hbad : ¬ (opField w = 2 ∧ rsvField w = 0) := by
      rintro ⟨h2, h0⟩
      simp [h2, h0] at hres
    exact ⟨iff_of_false nofun (by omega), iff_of_true rfl ⟨hop, hres⟩,
      iff_of_false nofun fun ⟨h2, h0, _⟩ => hbad ⟨h2, h0⟩, nofun, nofun⟩
  · have hop5 : (opField w).toNat < 5 := by simp [hop]
    have hres : ¬ (rsvField w ≠ 0 ∨ ((opField w = 0 ∨ opField w = 1 ∨ opField w = 3) ∧ argField w ≠ 0)) := by
      rw [hop, hrsv]
      simp
    exact ⟨iff_of_false nofun (by omega), iff_of_false nofun fun ⟨_, h⟩ => hres h, iff_of_true rfl ⟨hop, hrsv, hnb⟩,
      nofun, nofun⟩
  · exact ⟨iff_of_false nofun (by omega), iff_of_false nofun fun ⟨_, h⟩ => hres h,
      iff_of_false nofun fun ⟨h2, _, h⟩ => hnb ⟨h2, h⟩, nofun, nofun⟩

/-- Settles O8. -/
theorem specWordsDecode : Obligations.SpecWordsDecode := by
  unfold Obligations.SpecWordsDecode
  decide

end Sys2Proof
end

section
/-! PROOF. DATA that is ignored has no effect (R74), and assembling a disassembled word (R79). -/

namespace Sys2Proof.Machine

/-- Byte j of DATA is made of the bits at and above 24 - 8j (R74). -/
theorem dataByte_congr {data data' : Word32} {j : Nat}
    (h : ∀ i : Nat, 24 - 8 * j ≤ i → data.getLsbD i = data'.getLsbD i) : dataByte data j = dataByte data' j := by
  apply BitVec.eq_of_getLsbD_eq
  intro i hi
  simp [dataByte, h (24 - 8 * j + i) (Nat.le_add_right _ _)]

/-- The message bytes of an ABSORB are made of the bits at and above 32 - 8·NB. -/
theorem absorbBytes_congr {nb : BitVec 3} {data data' : Word32}
    (h : ∀ i : Nat, 32 - 8 * nb.toNat ≤ i → data.getLsbD i = data'.getLsbD i) :
    absorbBytes nb data = absorbBytes nb data' := by
  refine List.map_congr_left fun j hj => dataByte_congr fun i hi => h i ?_
  have hj' : j < nb.toNat := List.mem_range.1 hj
  omega

/-- Settles O9: DATA enters the state as its message bytes alone. -/
theorem ignoredDataBytesHaveNoEffect : Obligations.IgnoredDataBytesHaveNoEffect := by
  intro nb data data' s hn h
  have hload : loadMessage nb data = loadMessage nb data' := by
    funext s
    rw [loadMessage, loadMessage, absorbBytes_congr h]
  rw [exec_absorb_legal data s hn, exec_absorb_legal data' s hn, hload]

/-! ### Assembling a disassembled word -/

theorem disassemble_illegal {w : Cmd64} {c : ErrCode} (h : decode w = .illegal c) : disassemble w = .raw w.toNat := by
  simp only [disassemble, h]

theorem assemble_raw (w : Cmd64) : assemble (.raw w.toNat) = some w := by
  simp [assemble, w.isLt]

/-- The assembler gives the word of the command that the disassembler read (R79). -/
theorem assemble_disassemble_command {w : Cmd64} {i : Instr} (h : decode w = .command i) :
    assemble (disassemble w) = some (encode i) := by
  obtain ⟨-, hwf, -⟩ := decode_command h
  cases i with
  | nop => simp only [disassemble, h, assemble]
  | init => simp only [disassemble, h, assemble]
  | absorb nb d =>
    obtain ⟨hpos, hle⟩ : NbLegal nb := of_decide_eq_true hwf
    simp [disassemble, h, assemble, hpos, hle, d.isLt]
  | finalize => simp only [disassemble, h, assemble]
  | readH idx => simp [disassemble, h, assemble]

/-- A word whose DATA is 0 is its own low half. -/
theorem setWidth_setWidth_enc (op : BitVec 4) (arg : BitVec 3) :
    ((enc op arg 0).setWidth 32).setWidth 64 = enc op arg 0 := by
  apply BitVec.eq_of_getLsbD_eq
  intro i hi
  rw [BitVec.getLsbD_setWidth, BitVec.getLsbD_setWidth, enc_bit]
  by_cases hlow : i < 32
  · simp [hi, hlow]
  · have hop : ¬ i < 4 := by omega
    have harg : ¬ i < 7 := by omega
    simp [hlow, hop, harg]

/-- A command other than ABSORB has the word with its low half and DATA = 0 (R79). -/
theorem encode_of_decode_not_absorb {w : Cmd64} {i : Instr} (h : decode w = .command i)
    (hi : ∀ nb d, i ≠ .absorb nb d) : encode i = (w.setWidth 32).setWidth 64 := by
  have hdata : i.data = 0 := by
    cases i with
    | absorb nb d => exact absurd rfl (hi nb d)
    | _ => rfl
  rw [encode, hdata, ← setWidth_setWidth_enc, i.setWidth_enc, setWidth_of_decode h]

/-- Settles O10. -/
theorem assembleOfDisassemble : Obligations.AssembleOfDisassemble := by
  intro w
  refine ⟨fun c h => ?_, fun nb d h => ?_, fun i h hi => ?_⟩
  · rw [disassemble_illegal h, assemble_raw]
  · rw [assemble_disassemble_command h, encode_of_decode_absorb h]
  · rw [assemble_disassemble_command h, encode_of_decode_not_absorb h hi]

end Sys2Proof.Machine
end

section
/-! PROOF. What the core represents under its engine and its commands: the bytes sent, their blocks, and the fold over them
(R129, R130, R172). -/

namespace Sys2Proof.Machine

/-! ### Blocks of a growing stream -/

theorem blockOf_getElem (stream : List Byte) (k j : Nat) (h : j < 64) :
    (blockOf stream k)[j] = stream.getD (64 * k + j) 0 := by
  simp [blockOf]

/-- A block the stream has filled does not change when the stream grows (R130). -/
theorem blockOf_append {sent : List Byte} (x : List Byte) {k : Nat} (h : 64 * (k + 1) ≤ sent.length) :
    blockOf (sent ++ x) k = blockOf sent k := by
  apply Vector.ext
  intro j hj
  rw [blockOf_getElem, blockOf_getElem, List.getD_append _ _ _ _ (by omega)]

/-- Nor does the fold over the blocks it has filled (R172). -/
theorem foldBlocks_append {sent : List Byte} (x : List Byte) {k : Nat} (h : 64 * k ≤ sent.length) :
    foldBlocks (sent ++ x) k = foldBlocks sent k := by
  induction k with
  | zero => rfl
  | succ k ih => rw [foldBlocks, foldBlocks, ih (by omega), blockOf_append x h]

/-- BufAppend's write to M keeps M in step with the last block of the stream, the new byte included (R127). -/
theorem buffer_append {M : Block} {sent : List Byte} {p : Fin 64} (b : Byte) (hp : p.val = sent.length % 64)
    (hM : ∀ j : Fin 64, j.val < p.val → M[j] = (blockOf sent (sent.length / 64))[j]) (j : Nat) (hj : j ≤ p.val)
    (hj64 : j < 64) : (M.set p.val b)[j] = (blockOf (sent ++ [b]) (sent.length / 64))[j] := by
  rw [blockOf_getElem]
  rcases Nat.lt_or_eq_of_le hj with hlt | rfl
  · have hold := hM ⟨j, hj64⟩ hlt
    simp only [Fin.getElem_fin, blockOf_getElem] at hold
    rw [Vector.getElem_set_ne _ _ (by omega), List.getD_append _ _ _ _ (by omega), hold]
  · rw [Vector.getElem_set_self, List.getD_append_right _ _ _ _ (by omega)]
    have hend : 64 * (sent.length / 64) + p.val - sent.length = 0 := by omega
    simp [hend]

/-! ### The engine -/

theorem bufAppend_phase_of_last (b : Byte) {s : State} (h : s.p.val = 63) : (bufAppend b s).phase = .round 0 := by
  rw [bufAppend_of_last b h, startCompression_phase]

theorem bufAppend_phase_of_lt (b : Byte) {s : State} (h : s.p.val < 63) : (bufAppend b s).phase = s.phase := by
  rw [bufAppend_of_lt b h]

theorem represents_roundStep {s : State} {m : List Byte} {t : Fin 64} (h : Represents m s) (hp : s.phase = .round t) :
    Represents m (roundStep t s) := by
  obtain ⟨sent, hstream, hfill, hM, -, hblock⟩ := h.stream
  refine ⟨coreInv_roundStep h.inv hp, by simpa using h.length, sent, by simpa using hstream, by simpa using hfill,
    by simpa using hM, fun hidle => absurd hidle phaseAfter_ne_idle, fun _ => ?_⟩
  simpa using hblock (by simp [hp])

/-- The accumulate step makes the block in compression one more of the fold (R170, R172). -/
theorem represents_accumulateStep {s : State} {m : List Byte} (h : Represents m s) (hp : s.phase = .accum) :
    Represents m (accumulateStep s) := by
  obtain ⟨sent, hstream, hfill, -, -, hblock⟩ := h.stream
  obtain ⟨k, hlen, hH, hM⟩ := hblock (by simp [hp])
  have hk : sent.length / 64 = k + 1 := by omega
  refine ⟨coreInv_accumulateStep h.inv hp, h.length, sent, hstream, hfill, fun j hj => ?_, fun _ => ?_,
    fun hne => absurd rfl hne⟩
  · simp only [accumulateStep_p] at hj
    omega
  · rw [accumulateStep_H, h.inv.compressing.workAtEnd hp, hk, foldBlocks, ← hH, ← hM, compress]

/-- An append moves the next byte from Q to the bytes sent, and completes a block with every 64th (R127, R197). -/
theorem represents_append {s : State} {m : List Byte} {b : Byte} {q : List Byte} (h : Represents m s)
    (hp : s.phase = .idle) (hq : s.Q = b :: q) : Represents m (bufAppend b { s with Q := q }) := by
  obtain ⟨sent, hstream, hfill, hM, hH, -⟩ := h.stream
  have hbuf := buffer_append b hfill hM
  have hlen : (sent ++ [b]).length = sent.length + 1 := by simp
  have hfill' : (bufAppend b { s with Q := q }).p.val = (s.p.val + 1) % 64 := bufAppend_p b _
  refine ⟨coreInv_append h.inv hp hq, by simpa using h.length, sent ++ [b], by simpa [hq] using hstream, by omega, ?_⟩
  have hH' : (bufAppend b { s with Q := q }).H = foldBlocks (sent ++ [b]) (sent.length / 64) := by
    rw [bufAppend_H, hH hp, foldBlocks_append _ (by omega)]
  by_cases hlast : s.p.val = 63
  · have hround : (bufAppend b { s with Q := q }).phase = .round 0 := bufAppend_phase_of_last b hlast
    refine ⟨fun j hj => by omega, fun hidle => by simp [hround] at hidle,
      fun _ => ⟨sent.length / 64, by omega, hH', ?_⟩⟩
    rw [bufAppend_M]
    exact Vector.ext fun j hj => hbuf j (by omega) hj
  · have hlt : s.p.val < 63 := by omega
    have hidle : (bufAppend b { s with Q := q }).phase = .idle :=
      (bufAppend_phase_of_lt b (s := { s with Q := q }) hlt).trans hp
    have hk : (sent ++ [b]).length / 64 = sent.length / 64 := by omega
    refine ⟨fun j hj => ?_, fun _ => hk ▸ hH', fun hne => absurd hidle hne⟩
    rw [bufAppend_M, hk]
    exact hbuf j (by omega) j.isLt

/-- The finish step comes when the whole of pad(m) has been sent (R198). -/
theorem represents_finishStep {s : State} {m : List Byte} (h : Represents m s) (hp : s.phase = .idle) (hq : s.Q = [])
    (hf : s.FIN = true) : Represents m (finishStep s) := by
  obtain ⟨sent, hstream, hrest⟩ := h.stream
  exact ⟨coreInv_finishStep h.inv hp hq hf, h.length, sent, by simpa [hf] using hstream, hrest⟩

/-- Every engine step keeps what the core represents. -/
theorem represents_engineStep {s : State} {m : List Byte} (h : Represents m s) : Represents m (engineStep s) := by
  rcases engineStep_cases s with ⟨t, hp, e⟩ | ⟨hp, e⟩ | ⟨b, q, hp, hq, e⟩ | ⟨hp, hq, hf, e⟩ | ⟨-, e⟩ <;> rw [e]
  · exact represents_roundStep h hp
  · exact represents_accumulateStep h hp
  · exact represents_append h hp hq
  · exact represents_finishStep h hp hq hf
  · exact h

/-! ### Commands and responses -/

/-- With BUSY = 0 every byte has been sent, so the response slot and what is in it do not matter. -/
theorem represents_with_response {s : State} {m : List Byte} (h : Represents m s) (hb : busy s = false)
    (r : Option Word32) : Represents m { s with RSP := r } :=
  ⟨coreInv_with_response h.inv hb r, h.length, h.stream⟩

/-- ABSORB puts its bytes behind the message (R184). -/
theorem represents_loadMessage {s : State} {m : List Byte} {nb : BitVec 3} (h : Represents m s)
    (hq : quiescent s = true) (hn : NbLegal nb) (he : s.ERR = false) (hd : s.DONE = false) (d : Word32) :
    Represents (m ++ absorbBytes nb d) (loadMessage nb d s) := by
  obtain ⟨-, hQ, hf, -⟩ := (quiescent_iff s).1 hq
  obtain ⟨sent, hstream, hrest⟩ := h.stream
  have hsent : sent = m := by simpa [hQ, hf, hd] using hstream
  refine ⟨coreInv_loadMessage h.inv hq hn he hd d, ?_, sent, by simp [hsent, hf, hd], hrest⟩
  rw [loadMessage_L, h.length, ← BitVec.ofNat_add, List.length_append, absorbBytes_length, Nat.mul_add]

/-- The message followed by its padding tail is pad(m) (R125, R129). -/
theorem append_padTail {m : List Byte} {p : Fin 64} (hp : p.val = m.length % 64) :
    m ++ padTail p (BitVec.ofNat 64 (8 * m.length)) = pad m := by
  have hzeros : tailZeros p.val = (119 - m.length % 64) % 64 := by rw [tailZeros, hp, Nat.mod_mod]
  simp [pad_eq, padTail, hzeros]

/-- FINALIZE puts what is left of pad(m) behind the message (R185). -/
theorem represents_loadTail {s : State} {m : List Byte} (h : Represents m s) (hq : quiescent s = true)
    (he : s.ERR = false) (hd : s.DONE = false) : Represents m (loadTail s) := by
  obtain ⟨-, hQ, hf, -⟩ := (quiescent_iff s).1 hq
  obtain ⟨sent, hstream, hfill, hrest⟩ := h.stream
  have hsent : sent = m := by simpa [hQ, hf, hd] using hstream
  subst hsent
  exact ⟨coreInv_loadTail h.inv hq he hd, h.length, sent, by simp [h.length, append_padTail hfill], hfill, hrest⟩

/-! ### The engine comes to its end -/

theorem phaseSteps_idle {s : State} (hp : s.phase = .idle) : phaseSteps s = 0 := by
  simp only [phaseSteps, hp]

/-- A round step brings the end of the compression one step nearer (R201). -/
theorem phaseSteps_roundStep {s : State} {t : Fin 64} (hp : s.phase = .round t) :
    phaseSteps (roundStep t s) + 1 = phaseSteps s := by
  have hpos := roundsPerStep_pos s.impl.rounds
  simp only [phaseSteps, hp, roundStep_phase, roundStep_impl]
  generalize roundsPerStep s.impl.rounds = u at hpos
  by_cases hlt : t.val + u < 64
  · have hsplit : 64 - t.val + u - 1 = (64 - (t.val + u) + u - 1) + u := by omega
    simp only [phaseAfter, dif_pos hlt]
    rw [hsplit, Nat.add_div_right _ hpos]
  · have hone : (64 - t.val + u - 1) / u = 1 := Nat.div_eq_of_lt_le (by omega) (by omega)
    simp only [phaseAfter, dif_neg hlt, hone]

/-- A compression that begins has all its steps to come (R201). -/
theorem phaseSteps_round_zero {s : State} (hp : s.phase = .round 0) : phaseSteps s = compressionSteps s.impl := by
  simp only [phaseSteps, hp, compressionSteps]
  rcases roundsPerStep_cases s.impl.rounds with h | h | h | h | h | h | h <;> rw [h] <;> rfl

/-- An append leaves one byte less, and a compression in the place of the block it fills (R201). -/
theorem remainingSteps_append {s : State} {b : Byte} {q : List Byte} (hp : s.phase = .idle) (hq : s.Q = b :: q) :
    remainingSteps (bufAppend b { s with Q := q }) + 1 = remainingSteps s := by
  have hidle : phaseSteps s = 0 := phaseSteps_idle hp
  have hlen : s.Q.length = q.length + 1 := by rw [hq, List.length_cons]
  have hfill : (bufAppend b { s with Q := q }).p.val = (s.p.val + 1) % 64 := bufAppend_p b _
  by_cases hlast : s.p.val = 63
  · have hphase : phaseSteps (bufAppend b { s with Q := q }) = compressionSteps s.impl := by
      rw [phaseSteps_round_zero (bufAppend_phase_of_last b (s := { s with Q := q }) hlast), bufAppend_impl]
    have hblocks : (s.p.val + (q.length + 1)) / 64 = q.length / 64 + 1 := by omega
    have hp0 : (s.p.val + 1) % 64 = 0 := by omega
    simp only [remainingSteps, hphase, hfill, hp0, hidle, hlen, hblocks, Nat.zero_add, bufAppend_Q, bufAppend_impl,
      bufAppend_FIN]
    ring
  · have hlt : s.p.val < 63 := by omega
    have hphase : phaseSteps (bufAppend b { s with Q := q }) = 0 :=
      phaseSteps_idle ((bufAppend_phase_of_lt b (s := { s with Q := q }) hlt).trans hp)
    have hp1 : (s.p.val + 1) % 64 + q.length = s.p.val + (q.length + 1) := by omega
    simp only [remainingSteps, hphase, hfill, hp1, hidle, hlen, bufAppend_Q, bufAppend_impl, bufAppend_FIN]
    omega

/-- Each engine step brings the end one step nearer (R199, R201). -/
theorem remainingSteps_engineStep {s : State} (hb : busy s = true) :
    remainingSteps (engineStep s) + 1 = remainingSteps s := by
  rcases engineStep_cases s with ⟨t, hp, e⟩ | ⟨hp, e⟩ | ⟨b, q, hp, hq, e⟩ | ⟨hp, hq, hf, e⟩ | ⟨hb', -⟩
  · have hphase := phaseSteps_roundStep hp
    rw [e]
    simp only [remainingSteps, roundStep_Q, roundStep_p, roundStep_impl, roundStep_FIN]
    omega
  · rw [e]
    simp only [remainingSteps, phaseSteps, hp, accumulateStep_phase, accumulateStep_Q, accumulateStep_p,
      accumulateStep_impl, accumulateStep_FIN]
    omega
  · rw [e]
    exact remainingSteps_append hp hq
  · rw [e]
    simp [remainingSteps, phaseSteps, hp, hq, hf]
  · simp [hb] at hb'

/-- With BUSY = 0 no engine step is left (R195). -/
theorem remainingSteps_of_not_busy {s : State} (hb : busy s = false) : remainingSteps s = 0 := by
  obtain ⟨hp, hQ, hf⟩ := (busy_eq_false_iff s).1 hb
  have hfill : s.p.val / 64 = 0 := Nat.div_eq_of_lt s.p.isLt
  simp [remainingSteps, phaseSteps_idle hp, hQ, hf, hfill]

end Sys2Proof.Machine
end

section
/-! PROOF. The commands of HASH, offered to a quiescent core by a host that takes its responses, run to the digest (R81, R173). -/

namespace Sys2Proof.Machine

/-! ### Runs with a host that only holds its levels -/

/-- Some number of steps leads from `s` to `t`. -/
def Reaches (s t : State) : Prop := ∃ n, core.run n s = .next t

theorem Reaches.refl (s : State) : Reaches s s := ⟨0, rfl⟩

theorem Reaches.trans {s t u : State} : Reaches s t → Reaches t u → Reaches s u
  | ⟨m, h1⟩, ⟨n, h2⟩ => ⟨m + n, core_run_trans h1 h2⟩

theorem Reaches.of_step {s t : State} (h : step s = .next t) : Reaches s t := ⟨1, core_run_succ h⟩

/-- The host plans nothing, holds `rst` released and takes responses; it still offers `ws` and has taken `tk` (R40). -/
structure Hosted (ws : List Cmd64) (tk : List Word32) (P : Port) : Prop where
  rst : P.rst = false
  rspReady : P.rspReady = true
  plan : P.plan = []
  offers : P.offers = ws
  taken : P.taken = tk

/-- With nothing planned, the step is the core's own. -/
theorem Hosted.step_eq {ws : List Cmd64} {tk : List Word32} {s : State} (h : Hosted ws tk s.port) :
    step s = coreStep s := by
  simp only [step, h.plan]

theorem Hosted.step_busy {ws : List Cmd64} {tk : List Word32} {s : State} (h : Hosted ws tk s.port)
    (hb : busy s = true) : step s = .next (engineStep s) := by
  simp [h.step_eq, coreStep, h.rst, hb]

theorem Hosted.step_offer {w : Cmd64} {ws : List Cmd64} {tk : List Word32} {s : State} (h : Hosted (w :: ws) tk s.port)
    (hq : quiescent s = true) : step s = accept w (withOffers ws s) := by
  obtain ⟨hb, hrsp⟩ : busy s = false ∧ s.RSP = none := by simpa [quiescent] using hq
  simp [h.step_eq, coreStep, h.rst, hb, hrsp, h.offers]

theorem Hosted.step_response {v : Word32} {ws : List Cmd64} {tk : List Word32} {s : State} (h : Hosted ws tk s.port)
    (hb : busy s = false) (hv : s.RSP = some v) : step s = .next (takeResponse v s) := by
  simp [h.step_eq, coreStep, h.rst, hb, hv, h.rspReady]

theorem Hosted.withOffers {w : Cmd64} {ws : List Cmd64} {tk : List Word32} {s : State} (h : Hosted (w :: ws) tk s.port) :
    Hosted ws tk (withOffers ws s).port :=
  ⟨h.rst, h.rspReady, h.plan, rfl, h.taken⟩

theorem Hosted.takeResponse {ws : List Cmd64} {tk : List Word32} {s : State} (h : Hosted ws tk s.port) (v : Word32) :
    Hosted ws (tk ++ [v]) (takeResponse v s).port :=
  ⟨h.rst, h.rspReady, h.plan, h.offers, congrArg (· ++ [v]) h.taken⟩

/-! ### The core between two commands -/

/-- The core is ready for the next command, with `m` absorbed and no error; `done` says whether FINALIZE is behind it. -/
structure Serving (m : List Byte) (done : Bool) (ws : List Cmd64) (tk : List Word32) (s : State) : Prop where
  represents : Represents m s
  quiescent : quiescent s = true
  noError : s.ERR = false
  done : s.DONE = done
  host : Hosted ws tk s.port

/-- Once the tail is in Q, FIN stays until it turns into DONE (R198). -/
theorem engineStep_FIN_or_DONE (s : State) : ((engineStep s).FIN || (engineStep s).DONE) = (s.FIN || s.DONE) := by
  by_cases h : s.phase ≠ .idle ∨ s.Q ≠ [] ∨ s.FIN = false
  · obtain ⟨hf, hd⟩ := engineStep_FIN_DONE h
    rw [hf, hd]
  · simp only [not_or, ne_eq, not_not, Bool.not_eq_false] at h
    obtain ⟨hp, hq, hf⟩ := h
    rw [engineStep_finish hp hq hf]
    simp [hf]

/-- The engine runs until the core is ready for the next command (R199, R202). -/
theorem serving_after_engine {m : List Byte} {ws : List Cmd64} {tk : List Word32} {s : State} (h : Represents m s)
    (hrsp : s.RSP = none) (herr : s.ERR = false) (hhost : Hosted ws tk s.port) :
    ∃ t, Reaches s t ∧ Serving m (s.FIN || s.DONE) ws tk t := by
  induction hn : remainingSteps s generalizing s with
  | zero =>
    have hb : busy s = false := by
      by_contra hne
      have hcount := remainingSteps_engineStep (s := s) (by simpa using hne)
      omega
    obtain ⟨hp, hQ, hf⟩ := (busy_eq_false_iff s).1 hb
    exact ⟨s, .refl s, h, (quiescent_iff s).2 ⟨hp, hQ, hf, hrsp⟩, herr, by simp [hf], hhost⟩
  | succ n ih =>
    have hb : busy s = true := by
      by_contra hne
      have hzero := remainingSteps_of_not_busy (s := s) (by simpa using hne)
      omega
    have hcount := remainingSteps_engineStep hb
    obtain ⟨-, herr', -, hrsp', hport', -⟩ := engineStep_frame s
    obtain ⟨t, hrun, ht⟩ := ih (represents_engineStep h) (hrsp'.trans hrsp) (herr'.trans herr) (hport' ▸ hhost)
      (by omega)
    exact ⟨t, (Reaches.of_step (hhost.step_busy hb)).trans hrun, engineStep_FIN_or_DONE s ▸ ht⟩

section commands
variable {m : List Byte} {done : Bool} {ws : List Cmd64} {tk : List Word32} {s : State}

/-- The offered word of a well-formed command is accepted in the next step (R41, R180). -/
theorem Serving.reaches_exec {i : Instr} {t : State} (h : Serving m done (encode i :: ws) tk s) (hwf : i.WellFormed)
    (he : exec i (withOffers ws s) = .next t) : Reaches s t := by
  refine .of_step ?_
  rw [h.host.step_offer h.quiescent, accept_command (decode_encode hwf), he]

theorem serving_absorb {nb : BitVec 3} {d : Word32} (hn : NbLegal nb)
    (h : Serving m false (encode (.absorb nb d) :: ws) tk s) :
    ∃ t, Reaches s t ∧ Serving (m ++ absorbBytes nb d) false ws tk t := by
  obtain ⟨-, -, hf, hrsp⟩ := (quiescent_iff s).1 h.quiescent
  have hexec : exec (.absorb nb d) (withOffers ws s) = .next (loadMessage nb d (withOffers ws s)) := by
    rw [exec_absorb_legal d _ hn, gated_of_open (s := withOffers ws s) _ h.noError h.done]
  have hrep : Represents (m ++ absorbBytes nb d) (loadMessage nb d (withOffers ws s)) :=
    represents_loadMessage (represents_withPort (withOffers ws s).port h.represents) h.quiescent hn h.noError h.done d
  obtain ⟨t, hrun, hserve⟩ := serving_after_engine hrep hrsp h.noError h.host.withOffers
  refine ⟨t, (h.reaches_exec (decide_eq_true hn) hexec).trans hrun, ?_⟩
  simpa [hf, h.done] using hserve

theorem serving_finalize (h : Serving m false (encode .finalize :: ws) tk s) :
    ∃ t, Reaches s t ∧ Serving m true ws tk t := by
  obtain ⟨-, -, -, hrsp⟩ := (quiescent_iff s).1 h.quiescent
  have hexec : exec .finalize (withOffers ws s) = .next (loadTail (withOffers ws s)) := by
    rw [exec_finalize, gated_of_open (s := withOffers ws s) _ h.noError h.done]
  have hrep : Represents m (loadTail (withOffers ws s)) :=
    represents_loadTail (represents_withPort (withOffers ws s).port h.represents) h.quiescent h.noError h.done
  obtain ⟨t, hrun, hserve⟩ := serving_after_engine hrep hrsp h.noError h.host.withOffers
  refine ⟨t, (h.reaches_exec rfl hexec).trans hrun, ?_⟩
  simpa using hserve

/-- READ_H after FINALIZE: one step puts the digest's word in RSP, the next gives it to the host (R192, R42). -/
theorem serving_readH {idx : Fin 8} (h : Serving m true (encode (.readH idx) :: ws) tk s) :
    ∃ t, Reaches s t ∧ Serving m true ws (tk ++ [(digestState m)[idx]]) t := by
  obtain ⟨hp, hQ, hf, -⟩ := (quiescent_iff s).1 h.quiescent
  have hb : busy s = false := (busy_eq_false_iff s).2 ⟨hp, hQ, hf⟩
  obtain ⟨hdigest, -⟩ := doneMeansDigest s m h.represents
  have hexec : exec (.readH idx) (withOffers ws s) = .next (respond (digestState m)[idx] (withOffers ws s)) := by
    rw [exec_readH, withOffers_H, hdigest h.done]
  have htake := h.host.withOffers.step_response (s := respond (digestState m)[idx] (withOffers ws s)) hb rfl
  refine ⟨_, (h.reaches_exec rfl hexec).trans (.of_step htake), ?_⟩
  exact
    { represents := represents_withPort _ (represents_with_response h.represents hb none)
      quiescent := (quiescent_iff _).2 ⟨hp, hQ, hf, rfl⟩
      noError := h.noError
      done := h.done
      host := h.host.withOffers.takeResponse (s := respond _ (withOffers ws s)) _ }

/-- INIT leaves a fresh core from any quiescent one (R183, R245). -/
theorem serving_init (hq : quiescent s = true) (hhost : Hosted (encode .init :: ws) tk s.port) :
    ∃ t, Reaches s t ∧ Serving [] false ws tk t := by
  have hstep : step s = .next (startMessage (withOffers ws s)) := by
    rw [hhost.step_offer hq, accept_command (decode_encode rfl), exec_init]
  have hfresh : Fresh (startMessage (withOffers ws s)) := fresh_startMessage hq
  exact ⟨_, .of_step hstep, represents_nil_of_fresh hfresh, hq, hfresh.ERR, hfresh.DONE, hhost.withOffers⟩

end commands

/-! ### The sequences of HASH -/

/-- The first NB bytes of a word are the message bytes of its ABSORB (R74). -/
theorem absorbBytes_be32 {nb : BitVec 3} (hn : NbLegal nb) (b0 b1 b2 b3 : Byte) :
    absorbBytes nb (be32 b0 b1 b2 b3) = [b0, b1, b2, b3].take nb.toNat := by
  obtain ⟨-, hle⟩ := hn
  obtain ⟨h0, h1, h2, h3⟩ := dataByte_be32 b0 b1 b2 b3
  have hall : [b0, b1, b2, b3] = (List.range 4).map (dataByte (be32 b0 b1 b2 b3)) := by
    simp [List.range_succ, h0, h1, h2, h3]
  rw [hall, ← List.map_take, List.take_range, min_eq_left hle, absorbBytes]

/-- The instructions of a list of ABSORB operands. -/
def absorbInstrs (pieces : List (BitVec 3 × Word32)) : List Instr := pieces.map fun x => .absorb x.1 x.2

/-- The ABSORBs of a message carry its bytes in order, each 1 to 4 of them (R81). -/
theorem absorbAll_pieces (m : List Byte) : ∃ pieces : List (BitVec 3 × Word32),
    absorbAll m = absorbInstrs pieces ∧ (∀ x ∈ pieces, NbLegal x.1) ∧ absorbedBytes pieces = m := by
  have legal : NbLegal 1 ∧ NbLegal 2 ∧ NbLegal 3 ∧ NbLegal 4 := by decide
  obtain ⟨n1, n2, n3, n4⟩ := legal
  induction m using absorbAll.induct with
  | case1 => exact ⟨[], rfl, by simp, rfl⟩
  | case2 b0 =>
    refine ⟨[(1, be32 b0 0 0 0)], rfl, by simpa using n1, ?_⟩
    simp only [absorbedBytes, List.flatMap_singleton, absorbBytes_be32 n1]
    rfl
  | case3 b0 b1 =>
    refine ⟨[(2, be32 b0 b1 0 0)], rfl, by simpa using n2, ?_⟩
    simp only [absorbedBytes, List.flatMap_singleton, absorbBytes_be32 n2]
    rfl
  | case4 b0 b1 b2 =>
    refine ⟨[(3, be32 b0 b1 b2 0)], rfl, by simpa using n3, ?_⟩
    simp only [absorbedBytes, List.flatMap_singleton, absorbBytes_be32 n3]
    rfl
  | case5 b0 b1 b2 b3 rest ih =>
    obtain ⟨pieces, hpieces, hlegal, hbytes⟩ := ih
    refine ⟨(4, be32 b0 b1 b2 b3) :: pieces, by rw [absorbAll, hpieces]; rfl, ?_, ?_⟩
    · simpa using ⟨n4, by simpa using hlegal⟩
    · rw [absorbedBytes, List.flatMap_cons, absorbBytes_be32 n4, ← absorbedBytes, hbytes]
      rfl

theorem serving_absorbs {m : List Byte} {ws : List Cmd64} {tk : List Word32} {s : State}
    (pieces : List (BitVec 3 × Word32)) (hn : ∀ x ∈ pieces, NbLegal x.1)
    (h : Serving m false ((absorbInstrs pieces).map encode ++ ws) tk s) :
    ∃ t, Reaches s t ∧ Serving (m ++ absorbedBytes pieces) false ws tk t := by
  induction pieces generalizing m s with
  | nil => exact ⟨s, .refl s, by simpa [absorbedBytes, absorbInstrs] using h⟩
  | cons x pieces ih =>
    obtain ⟨t, hst, ht⟩ := serving_absorb (hn x List.mem_cons_self) h
    obtain ⟨u, htu, hu⟩ := ih (fun y hy => hn y (List.mem_cons_of_mem x hy)) ht
    exact ⟨u, hst.trans htu, by simpa [absorbedBytes] using hu⟩

theorem serving_reads {m : List Byte} {ws : List Cmd64} {tk : List Word32} {s : State} (idxs : List (Fin 8))
    (h : Serving m true ((idxs.map Instr.readH).map encode ++ ws) tk s) :
    ∃ t, Reaches s t ∧ Serving m true ws (tk ++ idxs.map fun i => (digestState m)[i]) t := by
  induction idxs generalizing tk s with
  | nil => exact ⟨s, .refl s, by simpa using h⟩
  | cons i idxs ih =>
    obtain ⟨t, hst, ht⟩ := serving_readH h
    obtain ⟨u, htu, hu⟩ := ih ht
    exact ⟨u, hst.trans htu, by simpa using hu⟩

/-- The words of HASH, part by part (R81). -/
theorem hash_words {m : List Byte} {pieces : List (BitVec 3 × Word32)} (h : absorbAll m = absorbInstrs pieces) :
    (expand (.hash m)).map encode = encode .init :: ((absorbInstrs pieces).map encode ++
      encode .finalize :: (((List.finRange 8).map Instr.readH).map encode ++ [])) := by
  have hread : readDigest = (List.finRange 8).map Instr.readH := by decide
  simp only [expand, h, hread, List.map_cons, List.map_append, List.append_nil]

/-- After FINALIZE the status word of a core with no error reads DONE alone (R36). -/
theorem Serving.statusWord_eq {m : List Byte} {ws : List Cmd64} {tk : List Word32} {s : State}
    (h : Serving m true ws tk s) : statusWord s = 2 := by
  obtain ⟨hp, hQ, hf, -⟩ := (quiescent_iff s).1 h.quiescent
  have hb : busy s = false := (busy_eq_false_iff s).2 ⟨hp, hQ, hf⟩
  have hcode : s.ERRCODE = .none := h.represents.inv.errCode.1 h.noError
  simp only [statusWord, h.host.rst, statusBits, hcode, h.noError, h.done, hb]
  decide

/-- The eight words read, in the order of their index, are the digest state (R173). -/
theorem digest_eq (m : List Byte) :
    ((List.finRange 8).map fun i => (digestState m)[i]).flatMap be32Bytes = digest m := by
  have hwords : ((List.finRange 8).map fun i => (digestState m)[i]) = (digestState m).toList := by
    apply List.ext_getElem <;> simp
  rw [digest, hwords]

/-- Settles O59: INIT, the ABSORBs, FINALIZE and the eight READ_Hs, each from where the one before leaves the core. -/
theorem hashCommandsYieldDigest : Obligations.HashCommandsYieldDigest := by
  intro s m hq hrst hready hplan hoffers htaken
  obtain ⟨pieces, hpieces, hlegal, hbytes⟩ := absorbAll_pieces m
  rw [hash_words hpieces] at hoffers
  obtain ⟨t1, hst1, h1⟩ := serving_init hq ⟨hrst, hready, hplan, hoffers, htaken⟩
  obtain ⟨t2, ht12, h2⟩ := serving_absorbs pieces hlegal h1
  obtain ⟨t3, ht23, h3⟩ := serving_finalize h2
  obtain ⟨t4, ht34, h4⟩ := serving_reads (List.finRange 8) h3
  obtain ⟨n, hrun⟩ := ((hst1.trans ht12).trans ht23).trans ht34
  refine ⟨n, t4, hrun, h4.host.offers, h4.quiescent, ?_, h4.statusWord_eq⟩
  rw [h4.host.taken, List.nil_append, List.nil_append, hbytes, digest_eq]

end Sys2Proof.Machine
end

section
/-! PROOF. The rotation, the logical functions and the sigma functions bit by bit, and the constant tables as roots of primes
(R100 to R111). -/

namespace Sys2Proof.Machine

/-! ### Rotation and shift -/

/-- The formula of R100 is the rotation of the library. -/
theorem rotr_eq_rotateRight (x : Word32) {n : Nat} (h : n < 32) : rotr x n = x.rotateRight n :=
  (BitVec.rotateRight_eq_rotateRightAux_of_lt h).symm

theorem getLsbD_rotr (x : Word32) {n i : Nat} (hn : n < 32) (hi : i < 32) :
    (rotr x n).getLsbD i = x.getLsbD ((i + n) % 32) := by
  rw [rotr_eq_rotateRight x hn, BitVec.getLsbD_rotateRight, Nat.mod_eq_of_lt hn]
  by_cases hwrap : i < 32 - n
  · have hidx : (i + n) % 32 = n + i := by omega
    simp [hwrap, hidx]
  · have hidx : (i + n) % 32 = i - (32 - n) := by omega
    simp [hwrap, hidx, hi]

/-- A right shift by `n` clears the top `n` bits (R101). -/
theorem getLsbD_shiftRight (x : Word32) (n i : Nat) :
    (x >>> n).getLsbD i = (decide (i < 32 - n) && x.getLsbD (i + n)) := by
  rw [BitVec.getLsbD_ushiftRight, Nat.add_comm]
  by_cases hout : i < 32 - n
  · simp [hout]
  · simp [hout, BitVec.getLsbD_of_ge x (i + n) (by omega)]

/-- Settles O18, by the library's rule for the bits of a rotation. -/
theorem rotateMovesEveryBit : Obligations.RotateMovesEveryBit :=
  ⟨fun x _ _ hn => ⟨rfl, fun _ hi => getLsbD_rotr x hn hi⟩, by decide⟩

/-! ### Choose and majority -/

theorem getLsbD_ch (e f g : Word32) {i : Nat} (hi : i < 32) :
    (ch e f g).getLsbD i = if e.getLsbD i then f.getLsbD i else g.getLsbD i := by
  simp only [ch, BitVec.getLsbD_xor, BitVec.getLsbD_and, BitVec.getLsbD_not]
  cases e.getLsbD i <;> simp [hi]

theorem ch_allOnes (f g : Word32) : ch (BitVec.allOnes 32) f g = f :=
  BitVec.eq_of_getLsbD_eq fun i hi => by
    rw [getLsbD_ch _ _ _ hi, BitVec.getLsbD_allOnes, decide_eq_true hi, if_pos rfl]

theorem ch_zero (f g : Word32) : ch 0#32 f g = g :=
  BitVec.eq_of_getLsbD_eq fun i hi => by rw [getLsbD_ch _ _ _ hi]; simp

theorem ch_same (e f : Word32) : ch e f f = f :=
  BitVec.eq_of_getLsbD_eq fun i hi => by rw [getLsbD_ch _ _ _ hi, ite_self]

theorem getLsbD_maj (a b c : Word32) (i : Nat) :
    (maj a b c).getLsbD i = Bool.atLeastTwo (a.getLsbD i) (b.getLsbD i) (c.getLsbD i) := by
  simp only [maj, BitVec.getLsbD_xor, BitVec.getLsbD_and]
  cases a.getLsbD i <;> cases b.getLsbD i <;> simp

theorem atLeastTwo_eq_true_iff (a b c : Bool) : Bool.atLeastTwo a b c = true ↔ 2 ≤ a.toNat + b.toNat + c.toNat := by
  revert a b c
  decide

theorem maj_same_left (x y : Word32) : maj x x y = x :=
  BitVec.eq_of_getLsbD_eq fun i _ => by rw [getLsbD_maj]; cases x.getLsbD i <;> simp

theorem maj_same_outer (x y : Word32) : maj x y x = x :=
  BitVec.eq_of_getLsbD_eq fun i _ => by rw [getLsbD_maj]; cases x.getLsbD i <;> simp

theorem maj_zero_allOnes (y : Word32) : maj 0#32 (BitVec.allOnes 32) y = y :=
  BitVec.eq_of_getLsbD_eq fun i hi => by
    rw [getLsbD_maj, BitVec.getLsbD_zero, BitVec.getLsbD_allOnes, decide_eq_true hi, Bool.atLeastTwo_false_left,
      Bool.true_and]

/-- Settles O19; the corner cases follow from the bits of Ch and Maj. -/
theorem chooseAndMajority : Obligations.ChooseAndMajority := by
  refine ⟨fun e f g i hi => getLsbD_ch e f g hi, fun a b c i _ => ?majority, fun _ _ _ => rfl, fun _ _ _ => rfl,
    fun f g => ⟨ch_allOnes f g, ch_zero f g⟩, ch_same, fun x y => ⟨maj_same_left x y, maj_same_outer x y⟩,
    maj_zero_allOnes, by decide, by decide⟩
  case majority => rw [getLsbD_maj, atLeastTwo_eq_true_iff]

/-! ### The sigma functions -/

section sigma
variable (x : Word32) {i : Nat} (hi : i < 32)
include hi

theorem getLsbD_bigSigma0 : (bigSigma0 x).getLsbD i =
    (x.getLsbD ((i + 2) % 32) ^^ x.getLsbD ((i + 13) % 32) ^^ x.getLsbD ((i + 22) % 32)) := by
  simp only [bigSigma0, BitVec.getLsbD_xor, getLsbD_rotr, hi, Nat.reduceLT]

theorem getLsbD_bigSigma1 : (bigSigma1 x).getLsbD i =
    (x.getLsbD ((i + 6) % 32) ^^ x.getLsbD ((i + 11) % 32) ^^ x.getLsbD ((i + 25) % 32)) := by
  simp only [bigSigma1, BitVec.getLsbD_xor, getLsbD_rotr, hi, Nat.reduceLT]

theorem getLsbD_smallSigma0 : (smallSigma0 x).getLsbD i =
    (x.getLsbD ((i + 7) % 32) ^^ x.getLsbD ((i + 18) % 32) ^^ (decide (i < 29) && x.getLsbD (i + 3))) := by
  simp only [smallSigma0, BitVec.getLsbD_xor, getLsbD_rotr, hi, Nat.reduceLT, getLsbD_shiftRight, Nat.reduceSub]

theorem getLsbD_smallSigma1 : (smallSigma1 x).getLsbD i =
    (x.getLsbD ((i + 17) % 32) ^^ x.getLsbD ((i + 19) % 32) ^^ (decide (i < 22) && x.getLsbD (i + 10))) := by
  simp only [smallSigma1, BitVec.getLsbD_xor, getLsbD_rotr, hi, Nat.reduceLT, getLsbD_shiftRight, Nat.reduceSub]

end sigma

/-- Settles O20, from the bits of the rotations and the shifts. -/
theorem sigmaBits : Obligations.SigmaBits :=
  ⟨fun _ => ⟨rfl, rfl, rfl, rfl⟩,
    fun x _ hi => ⟨getLsbD_bigSigma0 x hi, getLsbD_bigSigma1 x hi, getLsbD_smallSigma0 x hi, getLsbD_smallSigma1 x hi⟩,
    by decide, by decide, by decide, by decide⟩

/-! ### The constant tables -/

/-- The primes that the tables are made of (R110, R111). -/
def tablePrimes : List Nat := (List.range 312).filter Nat.Prime

theorem tablePrimes_length : tablePrimes.length = 64 := by decide +kernel

theorem K_eq_cbrt_fraction :
    ∀ i : Fin 64, K[i].toNat = Nat.nthRoot 3 (tablePrimes.getD i.val 0 * 2 ^ 96) % 2 ^ 32 := by decide +kernel

theorem IV_eq_sqrt_fraction :
    ∀ i : Fin 8, IV[i].toNat = Nat.nthRoot 2 (tablePrimes.getD i.val 0 * 2 ^ 64) % 2 ^ 32 := by decide +kernel

theorem K_injective : ∀ i j : Fin 64, K[i] = K[j] → i = j := by decide +kernel

/-- Settles O21, with the integer roots of the library as the roots the statement asks for. -/
theorem constantsAreRootFractions : Obligations.ConstantsAreRootFractions := by
  refine ⟨tablePrimes, rfl, tablePrimes_length, fun i => ?cube, fun i => ?square, K_injective⟩
  case cube =>
    exact ⟨_, Nat.pow_nthRoot_le (.inl three_ne_zero), Nat.lt_pow_nthRoot_add_one three_ne_zero _, K_eq_cbrt_fraction i⟩
  case square =>
    exact ⟨_, Nat.pow_nthRoot_le (.inl two_ne_zero), Nat.lt_pow_nthRoot_add_one two_ne_zero _, IV_eq_sqrt_fraction i⟩

end Sys2Proof.Machine
end

section
/-! PROOF. The padder: the shape of pad(m), the padding tail (R122, R123, R126, R129), and the message the core represents
after every step (R129, R130, R172). -/

namespace Sys2Proof.Machine

/-! ### The padding tail -/

/-- The zero bytes bring the message and its 0x80 byte to the place of the length field, and are the fewest that do (R122). -/
theorem tailZeros_spec (n : Nat) : tailZeros n < 64 ∧ (n + tailZeros n) % 64 = 55 := by
  unfold tailZeros
  omega

/-- Settles O22, from the count of zero bytes in the tail. -/
theorem padTailLength : Obligations.PadTailLength := by
  intro p L
  have hlen := padTail_length p L
  rw [tailZeros, Nat.mod_eq_of_lt p.isLt] at hlen
  have h55 : p = 55 ↔ p.val = 55 := Fin.ext_iff
  have h56 : p = 56 ↔ p.val = 56 := Fin.ext_iff
  rw [h55, h56]
  omega

/-- Settles O24: the tail's zero bytes for the fill count are those of `pad`. -/
theorem messageThenTailIsPad : Obligations.MessageThenTailIsPad :=
  fun _ _ hp => (append_padTail hp).symm

/-! ### The shape of pad(m) -/

/-- The zero bytes of `pad` are as many as those of the tail for the message's length. -/
theorem pad_eq_tailZeros (m : List Byte) :
    pad m = m ++ [0x80] ++ List.replicate (tailZeros m.length) 0 ++ be64Bytes (BitVec.ofNat 64 (8 * m.length)) :=
  pad_eq m

theorem pad_length (m : List Byte) : (pad m).length = m.length + 9 + tailZeros m.length := by
  simp only [pad_eq_tailZeros, List.length_append, List.length_singleton, List.length_replicate, be64Bytes_length]
  omega

theorem isPrefix_pad (m : List Byte) : m <+: pad m :=
  ⟨padTail ⟨m.length % 64, Nat.mod_lt _ (by decide)⟩ _, append_padTail rfl⟩

theorem pad_getElem?_length (m : List Byte) : (pad m)[m.length]? = some 0x80 := by
  simp [pad_eq_tailZeros]

/-- Between the 0x80 byte and the length field all bytes are zero. -/
theorem pad_getElem?_zeros {m : List Byte} {i : Nat} (hlo : m.length < i) (hhi : i + 8 < (pad m).length) :
    (pad m)[i]? = some 0 := by
  rw [pad_length] at hhi
  have hfirst : (m ++ [0x80]).length = m.length + 1 := by simp
  rw [pad_eq_tailZeros, List.getElem?_append_left (by simp; omega), List.getElem?_append_right (by omega),
    List.getElem?_replicate_of_lt (by omega)]

/-- Settles O23. The clauses on the last block follow from the length by arithmetic. -/
theorem padShape : Obligations.PadShape := by
  intro m
  obtain ⟨hlt, hfill⟩ := tailZeros_spec m.length
  have hlen := pad_length m
  refine ⟨⟨tailZeros m.length, hlt, hfill, pad_eq_tailZeros m, by omega, hlen⟩, by omega, isPrefix_pad m,
    pad_getElem?_length m, fun hfits => by omega, fun hspill => ⟨by omega, fun i hlo hhi => ?zeros⟩, by decide⟩
  case zeros => exact pad_getElem?_zeros (by omega) (by omega)

/-! ### The message after an accepted word -/

/-- `messageAfter` for a step that accepts the word `w`. -/
def messageAfterWord (w : Cmd64) (s : State) (m : List Byte) : List Byte :=
  match decode w with
  | .command .init => []
  | .command (.absorb nb data) => if s.ERR || s.DONE then m else m ++ absorbBytes nb data
  | _ => m

theorem messageAfter_of_resetting {s : State} (m : List Byte) (hr : resetting s = true) : messageAfter s m = [] := by
  simp [messageAfter, hr]

theorem messageAfter_of_not_accepted {s : State} (m : List Byte) (hr : resetting s = false) (ha : accepted s = none) :
    messageAfter s m = m := by
  simp [messageAfter, hr, ha]

theorem messageAfter_of_accepted {s : State} {w : Cmd64} (m : List Byte) (hr : resetting s = false)
    (ha : accepted s = some w) : messageAfter s m = messageAfterWord w s m := by
  simp only [messageAfter, messageAfterWord, hr, ha, Option.map_some]
  cases decode w with
  | illegal c => rfl
  | command i => cases i <;> rfl

/-! ### What the core represents after an accepted word -/

/-- An error record leaves the message as it is (R214). -/
theorem represents_with_error {s : State} {m : List Byte} {c : ErrCode} (h : Represents m s) (hb : busy s = false)
    (hc : c ≠ .none) : Represents m { s with ERR := true, ERRCODE := c } :=
  ⟨coreInv_with_error h.inv hb hc, h.length, h.stream⟩

theorem represents_raiseError {s : State} {m : List Byte} {c : ErrCode} (h : Represents m s) (hb : busy s = false)
    (hc : c ≠ .none) : Represents m (raiseError c s) := by
  rcases Bool.eq_false_or_eq_true s.ERR with he | he
  · rwa [raiseError_of_err c he]
  · rw [raiseError_of_no_err c he]
    exact represents_with_error h hb hc

/-- A command behind the gate of R180 changes the message only if it passes. -/
theorem represents_gated {f : State → State} {s : State} {m m' : List Byte} (h : Represents m s) (hb : busy s = false)
    (hf : s.ERR = false → s.DONE = false → Represents m' (f s)) :
    Represents (if s.ERR || s.DONE then m else m') (gated f s) := by
  rcases gated_cases f s with ⟨he, e⟩ | ⟨he, hd, e⟩ | ⟨he, hd, e⟩ <;> rw [e]
  · simpa [he] using h
  · simpa [hd] using represents_with_error h hb (c := .sequence) (by decide)
  · simpa [he, hd] using hf he hd

/-- A quiescent core represents the message after any word it accepts (R129, R183, R184, R185). -/
theorem represents_accept {w : Cmd64} {s t : State} {m : List Byte} (h : Represents m s) (hq : quiescent s = true)
    (ha : accept w s = .next t) : Represents (messageAfterWord w s m) t := by
  have hb : busy s = false := by
    obtain ⟨hp, hQ, hf, -⟩ := (quiescent_iff s).1 hq
    exact (busy_eq_false_iff s).2 ⟨hp, hQ, hf⟩
  cases hw : decode w with
  | illegal c =>
    rw [accept_illegal hw] at ha; cases ha
    have hc : c ≠ .none := fun hc => decode_ne_illegal_none w (hc ▸ hw)
    simpa only [messageAfterWord, hw] using represents_raiseError h hb hc
  | command i =>
    rw [accept_command hw] at ha
    simp only [messageAfterWord, hw]
    cases i with
    | nop => cases ha; exact h
    | init => cases ha; exact represents_nil_of_fresh (fresh_startMessage hq)
    | absorb nb d =>
      obtain ⟨-, hwf, -⟩ := decode_command hw
      have hn : NbLegal nb := of_decide_eq_true hwf
      rw [exec_absorb_legal d s hn] at ha; cases ha
      exact represents_gated h hb fun he hd => represents_loadMessage h hq hn he hd d
    | finalize =>
      cases ha
      simpa only [ite_self] using represents_gated h hb fun he hd => represents_loadTail h hq he hd
    | readH idx => cases ha; exact represents_with_response h hb (some s.H[idx])

/-! ### The step -/

/-- Settles O53: one lemma per event of the step. -/
theorem stepKeepsMessage : Obligations.StepKeepsMessage := by
  intro s t m h hs
  cases step_event hs with
  | reset P hr =>
    rw [messageAfter_of_resetting m hr]
    exact represents_nil_of_fresh (fresh_resetCore _)
  | hostTurn P hr ha =>
    rw [messageAfter_of_not_accepted m hr ha]
    exact represents_withPort P h
  | engine hr ha =>
    rw [messageAfter_of_not_accepted m hr ha]
    exact represents_withPort _ (represents_engineStep h)
  | take v hr ha _ hb =>
    rw [messageAfter_of_not_accepted m hr ha]
    exact represents_withPort _ (represents_with_response h hb none)
  | accept w ws hr _ hb hv _ ha _ hacc =>
    rw [messageAfter_of_accepted m hr ha]
    have hq : quiescent (withOffers ws (turned s)) = true := by simp [quiescent, turned, hb, hv]
    have hrep : Represents m (withOffers ws (turned s)) := represents_withPort (s := s) _ h
    change Represents (messageAfterWord w (withOffers ws (turned s)) m) t
    exact represents_accept hrep hq hacc
  | still hr ha =>
    rw [messageAfter_of_not_accepted m hr ha]
    exact represents_withPort _ h

end Sys2Proof.Machine
end

section
/-! PROOF. The schedule by its recurrence (R140, R141), and the circular store that holds it (R145). -/

namespace Sys2Proof.Machine

/-- Settles O25: a word past the native ones has index k + 16, and the four it is made of are k, k + 1, k + 9 and k + 14. -/
theorem scheduleRecurrence : Obligations.ScheduleRecurrence := by
  intro blk
  refine ⟨schedule_native blk, fun i h16 hi => ?_⟩
  obtain ⟨k, rfl⟩ := Nat.exists_eq_add_of_le' h16
  exact schedule_expand blk k hi

/-- Settles O26: round t's word is the last one made. -/
theorem windowHoldsSchedule : Obligations.WindowHoldsSchedule := fun blk t h =>
  windowAfter_slot blk (t + 1) t h (.inl t.lt_succ_self) (by omega)

end Sys2Proof.Machine
end

section
/-! PROOF. The round, the round step, and what stands still while a compression runs (R151 to R160). -/

namespace Sys2Proof.Machine

/-- Settles O27: the fields of a round as R151 writes them. -/
theorem roundComputesAAndE : Obligations.RoundComputesAAndE :=
  fun _ _ _ => ⟨rfl, rfl, rfl, rfl, rfl, rfl, rfl, rfl⟩

/-- Settles O28: the rounds done before the step, and those the step adds. -/
theorem roundStepAdvances : Obligations.RoundStepAdvances := by
  intro s t u hp hc hu ha
  subst hu
  have hbefore := roundsDone_of_compressing hc hp
  have hafter := roundsDone_roundStep ha hbefore
  rw [engineStep_round hp]
  refine ⟨aligned_le ha, by simpa using hafter.work, rfl, fun h1 => ?_, compressing_roundStep hc hp ha⟩
  have hnext := hafter.work
  simp only [h1, firstRounds_succ, roundStep_M, roundStep_H] at hnext
  rw [hnext, hbefore.work]
  rfl

/-- While a compression runs the engine appends no byte: M, p and Q stand still (R160). -/
theorem engineStep_buffer {s : State} (h : s.phase ≠ .idle) :
    (engineStep s).M = s.M ∧ (engineStep s).p = s.p ∧ (engineStep s).Q = s.Q := by
  rcases engineStep_cases s with ⟨t, -, e⟩ | ⟨-, e⟩ | ⟨b, q, hp, -⟩ | ⟨hp, -⟩ | ⟨-, e⟩
  · simp [e]
  · simp [e]
  · exact absurd hp h
  · exact absurd hp h
  · simp [e]

/-- Settles O35: with BUSY = 1 and no reset the step is the host's own turn or the engine's. -/
theorem compressionHoldsState : Obligations.CompressionHoldsState := by
  refine ⟨fun s t hp hr h => ?_, fun s hb => accepted_of_busy hb⟩
  have hbusy : busy s = true := (busy_eq_true_iff s).2 (.inl hp)
  cases step_event h with
  | reset P hr' => cases hr.symm.trans hr'
  | hostTurn => exact ⟨rfl, rfl, rfl, rfl, fun _ => rfl⟩
  | engine =>
    obtain ⟨hM, hfill, hQ⟩ := engineStep_buffer hp
    obtain ⟨hL, -⟩ := engineStep_frame s
    exact ⟨hM, hL, hfill, hQ, engineStep_H⟩
  | take _ _ _ _ hb | accept _ _ _ _ hb | still _ _ _ hb => cases hbusy.symm.trans hb

end Sys2Proof.Machine
end

section
/-! PROOF. The engine run to its end leaves what the bytes in Q and the compression in progress say, whatever the open
parameters (R145, R162, R200). -/

namespace Sys2Proof.Machine

/-! ### What the engine leaves -/

/-- The state, its scratch apart, with the compression in progress at its end, Q taken out, and FIN turned into DONE. -/
def blockClosed (s : State) : State :=
  { withoutScratch s with
    H := if s.phase = .idle then s.H else compress s.H s.M
    phase := .idle, Q := [], FIN := false, DONE := s.FIN || s.DONE }

/-- What the engine leaves of `s` when BUSY = 0 again: the compression in progress is finished, then the bytes of Q are appended in
the atomic form of R200. -/
def engineResult (s : State) : State := s.Q.foldl appendAtomic (blockClosed s)

/-- The compression in progress is the one of M, and the round counter a multiple of U (R158, R160). -/
structure InStep (s : State) : Prop where
  compressing : Compressing s
  aligned : ∀ t : Fin 64, s.phase = .round t → roundsPerStep s.impl.rounds ∣ t.val

theorem inStep_of_idle {s : State} (h : s.phase = .idle) : InStep s :=
  ⟨compressing_of_idle h, fun _ ht => nomatch h.symm.trans ht⟩

theorem inStep_roundStep {s : State} {t : Fin 64} (h : InStep s) (hp : s.phase = .round t) : InStep (roundStep t s) := by
  have ha := h.aligned t hp
  refine ⟨compressing_roundStep h.compressing hp ha, fun t' ht' => ?_⟩
  obtain ⟨e, -⟩ := phaseAfter_round ht'
  rw [e, roundStep_impl]
  exact Nat.dvd_add ha dvd_rfl

theorem inStep_bufAppend {b : Byte} {s : State} (hp : s.phase = .idle) : InStep (bufAppend b s) := by
  rcases bufAppend_phase (b := b) hp with hidle | ⟨hround, -, hc⟩
  · exact inStep_of_idle hidle
  · refine ⟨hc, fun t ht => ?_⟩
    cases hround.symm.trans ht
    exact dvd_zero _

theorem inStep_engineStep {s : State} (h : InStep s) : InStep (engineStep s) := by
  rcases engineStep_cases s with ⟨t, hp, e⟩ | ⟨-, e⟩ | ⟨b, q, hp, -, e⟩ | ⟨hp, -, -, e⟩ | ⟨-, e⟩ <;> rw [e]
  · exact inStep_roundStep h hp
  · exact inStep_of_idle rfl
  · exact inStep_bufAppend hp
  · exact inStep_of_idle hp
  · exact h

/-! ### Every engine step keeps it -/

theorem engineResult_roundStep {s : State} {t : Fin 64} (hp : s.phase = .round t) :
    engineResult (roundStep t s) = engineResult s := by
  have hclosed : blockClosed (roundStep t s) = blockClosed s := by
    simp [blockClosed, withoutScratch, hp, phaseAfter_ne_idle]
  rw [engineResult, roundStep_Q, hclosed, engineResult]

/-- The accumulate step ends the compression function of the block in M (R170, R171). -/
theorem engineResult_accumulateStep {s : State} (h : Compressing s) (hp : s.phase = .accum) :
    engineResult (accumulateStep s) = engineResult s := by
  have hH : addWorking s.H s.work = compress s.H s.M := by rw [h.workAtEnd hp, compress]
  have hclosed : blockClosed (accumulateStep s) = blockClosed s := by
    simp [blockClosed, withoutScratch, hp, hH]
  rw [engineResult, accumulateStep_Q, hclosed, engineResult]

/-- An append step is the append of R200, with the compression it starts still to come. -/
theorem engineResult_append {s : State} {b : Byte} {q : List Byte} (hp : s.phase = .idle) (hq : s.Q = b :: q) :
    engineResult (bufAppend b { s with Q := q }) = engineResult s := by
  have hclosed : blockClosed (bufAppend b { s with Q := q }) = appendAtomic (blockClosed s) b := by
    by_cases h63 : s.p.val = 63
    · rw [bufAppend_of_last b (s := { s with Q := q }) h63]
      simp [blockClosed, withoutScratch, appendAtomic, hp, h63]
    · rw [bufAppend_of_lt b (s := { s with Q := q }) (show s.p.val < 63 by omega)]
      simp [blockClosed, withoutScratch, appendAtomic, hp, h63]
  rw [engineResult, bufAppend_Q, hclosed, engineResult, hq, List.foldl_cons]

theorem engineResult_finishStep {s : State} (hp : s.phase = .idle) (hf : s.FIN = true) :
    engineResult (finishStep s) = engineResult s := by
  have hclosed : blockClosed (finishStep s) = blockClosed s := by
    simp [blockClosed, withoutScratch, hp, hf]
  rw [engineResult, finishStep_Q, hclosed, engineResult]

theorem engineResult_engineStep {s : State} (h : InStep s) : engineResult (engineStep s) = engineResult s := by
  rcases engineStep_cases s with ⟨t, hp, e⟩ | ⟨hp, e⟩ | ⟨b, q, hp, hq, e⟩ | ⟨hp, -, hf, e⟩ | ⟨-, e⟩ <;> rw [e]
  · exact engineResult_roundStep hp
  · exact engineResult_accumulateStep h.compressing hp
  · exact engineResult_append hp hq
  · exact engineResult_finishStep hp hf

theorem engineResult_of_not_busy {s : State} (hb : busy s = false) : engineResult s = withoutScratch s := by
  obtain ⟨hp, hQ, hf⟩ := (busy_eq_false_iff s).1 hb
  simp [engineResult, blockClosed, withoutScratch, hp, hQ, hf]

/-! ### The engine at its end -/

theorem drained_of_not_busy {s : State} (hb : busy s = false) : drained s = s :=
  engineRun_of_not_busy hb _

theorem drained_engineStep {s : State} (hb : busy s = true) : drained (engineStep s) = drained s := by
  rw [drained, drained, ← remainingSteps_engineStep hb, engineRun_succ]

/-- The engine run to its end leaves `engineResult`, its scratch apart. -/
theorem withoutScratch_drained {s : State} (h : InStep s) : withoutScratch (drained s) = engineResult s := by
  induction hn : remainingSteps s using Nat.strong_induction_on generalizing s with
  | _ n ih =>
    rcases Bool.eq_false_or_eq_true (busy s) with hb | hb
    · have hcount := remainingSteps_engineStep hb
      rw [← drained_engineStep hb, ih _ (by omega) (inStep_engineStep h) rfl, engineResult_engineStep h]
    · rw [drained_of_not_busy hb, engineResult_of_not_busy hb]

/-! ### The open parameters -/

/-- The same core with other open parameters. -/
def withImpl (c : Impl) (s : State) : State := { s with impl := c }

section withImpl
variable (c : Impl) (s : State)

theorem appendAtomic_withImpl (b : Byte) :
    appendAtomic (withImpl c s) b = withImpl c (appendAtomic s b) := by
  by_cases h : s.p.val = 63 <;> simp [appendAtomic, withImpl, h]

theorem engineResult_withImpl : engineResult (withImpl c s) = withImpl c (engineResult s) :=
  List.foldl_hom (withImpl c) (init := blockClosed s) (l := s.Q) fun r b => appendAtomic_withImpl c r b

theorem raiseError_withImpl (e : ErrCode) : raiseError e (withImpl c s) = withImpl c (raiseError e s) := by
  rw [raiseError_eq, raiseError_eq]
  rfl

theorem gated_withImpl {f : State → State} (hf : f (withImpl c s) = withImpl c (f s)) :
    gated f (withImpl c s) = withImpl c (gated f s) := by
  rcases gated_cases f s with ⟨he, e⟩ | ⟨he, hd, e⟩ | ⟨he, hd, e⟩ <;> rw [e]
  · exact gated_of_err f he
  · exact gated_of_done f he hd
  · exact (gated_of_open f (s := withImpl c s) he hd).trans hf

theorem exec_withImpl {i : Instr} {t : State} (h : exec i s = .next t) :
    exec i (withImpl c s) = .next (withImpl c t) := by
  cases i with
  | nop | init | readH => cases h; rfl
  | absorb nb d =>
    by_cases hn : NbLegal nb
    · rw [exec_absorb_legal d s hn] at h; cases h
      rw [exec_absorb_legal d _ hn, gated_withImpl c s (f := loadMessage nb d) rfl]
    · rw [exec_absorb_illegal d s hn] at h; cases h
      rw [exec_absorb_illegal d _ hn, raiseError_withImpl]
  | finalize =>
    cases h
    rw [exec_finalize, gated_withImpl c s (f := loadTail) rfl]

/-- No command and no error looks at the open parameters (R9). -/
theorem accept_withImpl {w : Cmd64} {t : State} (h : accept w s = .next t) :
    accept w (withImpl c s) = .next (withImpl c t) := by
  cases hw : decode w with
  | illegal e =>
    rw [accept_illegal hw] at h; cases h
    rw [accept_illegal hw, raiseError_withImpl]
  | command i =>
    rw [accept_command hw] at h ⊢
    exact exec_withImpl c s h

end withImpl

theorem accept_phase {w : Cmd64} {s t : State} (h : accept w s = .next t) : t.phase = s.phase := by
  cases accept_event h <;> rfl

/-- Settles O56: what the accepted word leaves differs in the parameters alone, and so does what the engine makes of it. -/
theorem parametersAreNotObservable : Obligations.ParametersAreNotObservable := by
  intro s t t' w c hq h h'
  obtain ⟨hidle, -⟩ := (quiescent_iff s).1 hq
  have ht : t.phase = .idle := (accept_phase h).trans hidle
  obtain rfl : withImpl c t = t' := Host.Outcome.next.inj ((accept_withImpl c s h).symm.trans h')
  calc withoutScratch (drained (withImpl c t))
      = engineResult (withImpl c t) := withoutScratch_drained (inStep_of_idle ht)
    _ = withImpl c (engineResult t) := engineResult_withImpl c t
    _ = withImpl c (withoutScratch (drained t)) := by rw [withoutScratch_drained (inStep_of_idle ht)]

end Sys2Proof.Machine
end

section
/-! PROOF. The accumulate step, and one compression from the append that starts it to its end (R170, R171). -/

namespace Sys2Proof.Machine

/-- Settles O29: the scratch is all that the accumulate step leaves unspecified. -/
theorem accumulateAddsAllWords : Obligations.AccumulateAddsAllWords := by
  intro s hp
  rw [engineStep_accum hp]
  exact ⟨rfl, rfl, rfl⟩

/-! ### A compression in progress, run to its end -/

theorem phaseSteps_accum {s : State} (hp : s.phase = .accum) : phaseSteps s = 1 := by
  simp only [phaseSteps, hp]

theorem phaseSteps_pos {s : State} (hp : s.phase ≠ .idle) : 0 < phaseSteps s := by
  rcases phase_cases s with hidle | ⟨t, hround⟩ | haccum
  · exact absurd hidle hp
  · have hcount := phaseSteps_roundStep hround
    omega
  · simp [phaseSteps_accum haccum]

/-- Before the last step of a compression the engine is not in IDLE, and H, M, p, L and Q stand still (R160). -/
theorem engineRun_before_end {s : State} {k : Nat} (h : k < phaseSteps s) :
    (engineRun k s).phase ≠ .idle ∧ (engineRun k s).H = s.H ∧ (engineRun k s).M = s.M ∧ (engineRun k s).p = s.p ∧
    (engineRun k s).L = s.L ∧ (engineRun k s).Q = s.Q := by
  have hp : s.phase ≠ .idle := fun hidle => by simp [phaseSteps_idle hidle] at h
  induction k generalizing s with
  | zero => exact ⟨hp, rfl, rfl, rfl, rfl, rfl⟩
  | succ k ih =>
    rcases phase_cases s with hidle | ⟨t, hround⟩ | haccum
    · exact absurd hidle hp
    · have hcount := phaseSteps_roundStep hround
      have hrest := ih (s := roundStep t s) (by omega) phaseAfter_ne_idle
      rw [engineRun_succ, engineStep_round hround]
      simpa using hrest
    · simp [phaseSteps_accum haccum] at h

/-- The state at the end of the compression of the block in M (R171). -/
def compressed (s : State) : State := { s with H := compress s.H s.M, phase := .idle }

/-- The steps of the compression in progress leave `Compress` of the block in M, and IDLE. -/
theorem withoutScratch_engineRun_phaseSteps {s : State} (h : InStep s) (hp : s.phase ≠ .idle) :
    withoutScratch (engineRun (phaseSteps s) s) = compressed (withoutScratch s) := by
  induction hn : phaseSteps s generalizing s with
  | zero =>
    have hpos := phaseSteps_pos hp
    omega
  | succ n ih =>
    rcases phase_cases s with hidle | ⟨t, hround⟩ | haccum
    · exact absurd hidle hp
    · have hcount := phaseSteps_roundStep hround
      rw [engineRun_succ, engineStep_round hround, ih (inStep_roundStep h hround) phaseAfter_ne_idle (by omega)]
      simp [compressed, withoutScratch]
    · obtain rfl : n = 0 := by
        rw [phaseSteps_accum haccum] at hn
        omega
      have hH : addWorking s.H s.work = compress s.H s.M := by rw [h.compressing.workAtEnd haccum, compress]
      rw [engineRun_succ, engineStep_accum haccum, engineRun]
      simp [compressed, withoutScratch, hH]

/-- The append of the last byte of a block writes M, p, Q, the phase and the scratch, and starts the compression (R127, R154). -/
theorem withoutScratch_engineStep_of_last {s : State} {b : Byte} {q : List Byte} (hidle : s.phase = .idle)
    (hQ : s.Q = b :: q) (hlast : s.p = 63) :
    withoutScratch (engineStep s) =
      withoutScratch { s with Q := q, p := 0, M := s.M.set 63 b, phase := .round 0 } := by
  rw [engineStep_append hidle hQ, bufAppend_of_last b (s := { s with Q := q }) (congrArg Fin.val hlast),
    withoutScratch_eq_iff]
  simp [hlast]

/-- Settles O30: the append starts a compression with all its steps to come. -/
theorem engineCompressionIsCompress : Obligations.EngineCompressionIsCompress := by
  intro s b q hidle hQ hlast
  have hstart := withoutScratch_engineStep_of_last hidle hQ hlast
  obtain ⟨hH, hL, hp, hM, hq, -, hround, -, -, -, -, -, himpl⟩ := (withoutScratch_eq_iff _ _).1 hstart
  have hin : InStep (engineStep s) := by
    rw [engineStep_append hidle hQ]
    exact inStep_bufAppend hidle
  have hsteps : phaseSteps (engineStep s) = compressionSteps s.impl := by rw [phaseSteps_round_zero hround, himpl]
  refine ⟨?_, fun k hk hle => ?_⟩
  · rw [Nat.add_comm, engineRun_succ, ← hsteps, withoutScratch_engineRun_phaseSteps hin (by simp [hround]), hstart]
    simp [compressed, withoutScratch, hidle]
  · obtain ⟨k, rfl⟩ := Nat.exists_eq_add_of_le' hk
    obtain ⟨hne, hH', hM', hp', hL', hQ'⟩ := engineRun_before_end (s := engineStep s) (k := k) (by omega)
    exact ⟨hne, hH'.trans hH, hM'.trans hM, hp'.trans hp, hL'.trans hL, hQ'.trans hq⟩

end Sys2Proof.Machine
end

section
/-! PROOF. The digest of a message split in any way: the commands, each run to its end, whatever the host's side holds (R175). -/

namespace Sys2Proof.Machine

/-! ### The engine run to its end -/

theorem engineStep_ERR (s : State) : (engineStep s).ERR = s.ERR :=
  let ⟨_, hE, _⟩ := engineStep_frame s
  hE

theorem engineStep_RSP (s : State) : (engineStep s).RSP = s.RSP :=
  let ⟨_, _, _, hR, _⟩ := engineStep_frame s
  hR

theorem busy_drained (s : State) : busy (drained s) = false := by
  induction hn : remainingSteps s generalizing s with
  | zero =>
    by_contra hne
    rw [drained, hn, engineRun, Bool.not_eq_false] at hne
    have hcount := remainingSteps_engineStep hne
    omega
  | succ n ih =>
    rcases Bool.eq_false_or_eq_true (busy s) with hb | hb
    · have hcount := remainingSteps_engineStep hb
      rw [← drained_engineStep hb]
      exact ih (engineStep s) (by omega)
    · rwa [drained_of_not_busy hb]

/-- What every engine step leaves unchanged, the engine run to its end leaves unchanged. -/
theorem drained_keeps {α : Type} {g : State → α} (hg : ∀ s, g (engineStep s) = g s) (s : State) :
    g (drained s) = g s := by
  rw [drained]
  induction remainingSteps s generalizing s with
  | zero => rfl
  | succ n ih => rw [engineRun_succ, ih, hg]

theorem represents_drained {m : List Byte} {s : State} (h : Represents m s) : Represents m (drained s) := by
  rw [drained]
  induction remainingSteps s generalizing s with
  | zero => exact h
  | succ n ih => exact ih (represents_engineStep h)

/-! ### The core between two commands -/

/-- What `Serving` says of the core itself: it is ready for the next command, with `m` absorbed and no error; `done` says whether
FINALIZE is behind it. -/
structure Ready (m : List Byte) (done : Bool) (s : State) : Prop where
  represents : Represents m s
  quiescent : quiescent s = true
  noError : s.ERR = false
  done : s.DONE = done

/-- INIT and reset leave the core ready for the first byte (R175). -/
theorem ready_of_fresh {s : State} (h : Fresh s) : Ready [] false s :=
  ⟨represents_nil_of_fresh h, (quiescent_iff s).2 ⟨h.phase, h.Q, h.FIN, h.RSP⟩, h.ERR, h.DONE⟩

/-- A command that leaves `t` has the core ready again when the engine has come to its end (R200, R202). -/
theorem ready_runCommand {i : Instr} {m : List Byte} {s t : State} (he : exec i s = .next t) (h : Represents m t)
    (hrsp : t.RSP = none) (herr : t.ERR = false) : Ready m (t.FIN || t.DONE) (runCommand i s) := by
  have hrun : runCommand i s = drained t := by simp only [runCommand, he]
  obtain ⟨hphase, hQ, hf⟩ := (busy_eq_false_iff _).1 (busy_drained t)
  have hrsp' : (drained t).RSP = t.RSP := drained_keeps engineStep_RSP t
  have herr' : (drained t).ERR = t.ERR := drained_keeps engineStep_ERR t
  have hdone : ((drained t).FIN || (drained t).DONE) = (t.FIN || t.DONE) :=
    drained_keeps (g := fun s => s.FIN || s.DONE) engineStep_FIN_or_DONE t
  rw [hrun]
  exact ⟨represents_drained h, (quiescent_iff _).2 ⟨hphase, hQ, hf, hrsp'.trans hrsp⟩, herr'.trans herr,
    by simpa [hf] using hdone⟩

theorem ready_absorb {m : List Byte} {nb : BitVec 3} {s : State} (hn : NbLegal nb) (h : Ready m false s) (d : Word32) :
    Ready (m ++ absorbBytes nb d) false (runCommand (.absorb nb d) s) := by
  obtain ⟨-, -, hf, hrsp⟩ := (quiescent_iff s).1 h.quiescent
  have hexec : exec (.absorb nb d) s = .next (loadMessage nb d s) := by
    rw [exec_absorb_legal d s hn, gated_of_open _ h.noError h.done]
  have hready := ready_runCommand hexec
    (represents_loadMessage h.represents h.quiescent hn h.noError h.done d) hrsp h.noError
  simpa [hf, h.done] using hready

theorem ready_finalize {m : List Byte} {s : State} (h : Ready m false s) : Ready m true (runCommand .finalize s) := by
  obtain ⟨-, -, -, hrsp⟩ := (quiescent_iff s).1 h.quiescent
  have hexec : exec .finalize s = .next (loadTail s) := by
    rw [exec_finalize, gated_of_open _ h.noError h.done]
  exact ready_runCommand hexec (represents_loadTail h.represents h.quiescent h.noError h.done) hrsp h.noError

theorem ready_runAbsorbs {m : List Byte} {s : State} (pieces : List (BitVec 3 × Word32))
    (hn : ∀ x ∈ pieces, NbLegal x.1) (h : Ready m false s) :
    Ready (m ++ absorbedBytes pieces) false (runAbsorbs pieces s) := by
  induction pieces generalizing m s with
  | nil => simpa [absorbedBytes, runAbsorbs] using h
  | cons x pieces ih =>
    have hfirst := ready_absorb (hn x List.mem_cons_self) h x.2
    have hrest := ih (fun y hy => hn y (List.mem_cons_of_mem x hy)) hfirst
    simpa [absorbedBytes, runAbsorbs] using hrest

/-- Settles O58: the pieces one after the other leave their bytes absorbed, and FINALIZE their digest state. -/
theorem digestOfAnySplit : Obligations.DigestOfAnySplit := by
  intro s t pieces hstart hn ht
  subst ht
  have hfresh : Fresh s := by
    rcases hstart with hfresh | ⟨r, hq, hinit⟩
    · exact hfresh
    · cases hinit
      exact fresh_startMessage hq
  have h := ready_finalize (ready_runAbsorbs pieces hn (ready_of_fresh hfresh))
  rw [List.nil_append] at h
  obtain ⟨hdigest, -⟩ := doneMeansDigest _ _ h.represents
  have hH := hdigest h.done
  refine ⟨h.quiescent, h.done, h.noError, hH, fun idx => ⟨_, exec_readH idx _, ?_⟩⟩
  rw [respond_RSP, hH]

end Sys2Proof.Machine
end

section
/-! PROOF. What an executed command does and what it leaves unchanged (R180 to R192, R211). -/

namespace Sys2Proof.Machine

/-! ### NOP, INIT and READ_H -/

/-- A word with OP = 0 is NOP, or has a reserved bit set (R76, R182). -/
theorem decode_of_opField_zero {w : Cmd64} (h : opField w = 0) :
    decode w = if argField w = 0 ∧ rsvField w = 0 then .command .nop else .illegal .reserved := by
  split
  · next hzero =>
    obtain ⟨harg, hrsv⟩ := hzero
    simp [decode, h, harg, hrsv]
  · next hset =>
    have hres : rsvField w ≠ 0 ∨ ((opField w = 0 ∨ opField w = 1 ∨ opField w = 3) ∧ argField w ≠ 0) := by
      by_contra hnone
      obtain ⟨hrsv, harg⟩ := not_or.1 hnone
      exact hset ⟨not_not.1 fun hne => harg ⟨.inl h, hne⟩, not_not.1 hrsv⟩
    rcases decode_cases w with ⟨hop, -⟩ | ⟨-, -, e⟩ | ⟨hop, -⟩ | ⟨-, hno, -⟩
    · simp [h] at hop
    · exact e
    · simp [h] at hop
    · exact absurd hres hno

/-- Settles O11. -/
theorem nopChangesNothing : Obligations.NopChangesNothing :=
  ⟨exec_nop, fun _ h => decode_of_opField_zero h⟩

/-- Settles O12: INIT's state is `startMessage`, whose fields are known one by one. -/
theorem initStartsMessage : Obligations.InitStartsMessage := fun s => ⟨startMessage s, exec_init s, by simp⟩

/-- Settles O15: READ_H's state is `respond`, which writes RSP alone. -/
theorem readHRespondsWithWord : Obligations.ReadHRespondsWithWord := fun idx s =>
  ⟨respond s.H[idx] s, exec_readH idx s, by simp⟩

/-! ### ABSORB and FINALIZE -/

/-- An ABSORB with a legal NB while ERR = 0 and DONE = 0 (R180, R184). -/
theorem exec_absorb_open {nb : BitVec 3} (d : Word32) {s : State} (hn : NbLegal nb) (he : s.ERR = false)
    (hd : s.DONE = false) : exec (.absorb nb d) s = .next (loadMessage nb d s) := by
  rw [exec_absorb_legal d s hn, gated_of_open _ he hd]

/-- A FINALIZE while ERR = 0 and DONE = 0 (R180, R185). -/
theorem exec_finalize_open {s : State} (he : s.ERR = false) (hd : s.DONE = false) :
    exec .finalize s = .next (loadTail s) := by
  rw [exec_finalize, gated_of_open _ he hd]

/-- Byte j of an ABSORB's bytes is byte j of DATA, most significant first (R74). -/
theorem absorbBytes_getElem? {nb : BitVec 3} {j : Nat} (d : Word32) (h : j < nb.toNat) :
    (absorbBytes nb d)[j]? = some (d.extractLsb' (24 - 8 * j) 8) := by
  simp [absorbBytes, dataByte, h]

/-- An ABSORB that loads a byte makes the core busy (R33). -/
theorem busy_loadMessage {nb : BitVec 3} (hn : NbLegal nb) (d : Word32) (s : State) :
    busy (loadMessage nb d s) = true := by
  obtain ⟨hpos, -⟩ := hn
  have hlen := absorbBytes_length nb d
  exact (busy_eq_true_iff _).2 (.inr (.inl (List.ne_nil_of_length_pos (by rw [loadMessage_Q]; omega))))

/-- Settles O13. -/
theorem absorbLoadsBytes : Obligations.AbsorbLoadsBytes := by
  intro nb d s hn he hd
  exact ⟨loadMessage nb d s, exec_absorb_open d hn he hd, by simp, absorbBytes_length nb d,
    fun j hj => absorbBytes_getElem? d hj, busy_loadMessage hn d s, by simp⟩

/-- Settles O14: the tail's zero bytes are counted as R125 writes them. -/
theorem finalizeLoadsTail : Obligations.FinalizeLoadsTail := by
  intro s he hd
  have hzeros : tailZeros s.p = (55 + (64 - s.p.val)) % 64 := by
    rw [tailZeros]
    omega
  exact ⟨loadTail s, exec_finalize_open he hd, by simp [padTail, hzeros], rfl,
    (busy_eq_true_iff _).2 (.inr (.inr rfl)), by simp⟩

/-- Settles O16: NB is looked at before the gate, and the gate looks at ERR before DONE. -/
theorem gateOrder : Obligations.GateOrder := by
  intro nb d s
  refine ⟨fun hn => ?_, fun hn he => ?_, fun he => ?_, fun hn he hd => ?_, fun he hd => ?_⟩
  · exact exec_absorb_illegal d s hn
  · rw [exec_absorb_legal d s hn, gated_of_err _ he]
  · rw [exec_finalize, gated_of_err _ he]
  · rw [exec_absorb_legal d s hn, gated_of_done _ he hd]
  · rw [exec_finalize, gated_of_done _ he hd]

/-! ### The frame -/

/-- What a gated command can leave: the state as it was, an error record, or its effect (R180). -/
theorem gated_result (f : State → State) (s : State) :
    gated f s = s ∨ (∃ c, gated f s = { s with ERR := true, ERRCODE := c }) ∨ gated f s = f s := by
  rcases gated_cases f s with ⟨-, e⟩ | ⟨-, -, e⟩ | ⟨-, -, e⟩
  · exact .inl e
  · exact .inr (.inl ⟨_, e⟩)
  · exact .inr (.inr e)

/-- What an ABSORB can leave, NB legal or not (R184, R211). -/
theorem exec_absorb_result {nb : BitVec 3} {d : Word32} {s t : State} (h : exec (.absorb nb d) s = .next t) :
    t = s ∨ (∃ c, t = { s with ERR := true, ERRCODE := c }) ∨ t = loadMessage nb d s := by
  by_cases hn : NbLegal nb
  · rw [exec_absorb_legal d s hn] at h; cases h
    exact gated_result _ s
  · rw [exec_absorb_illegal d s hn] at h; cases h
    rcases Bool.eq_false_or_eq_true s.ERR with he | he
    · exact .inl (raiseError_of_err _ he)
    · exact .inr (.inl ⟨_, raiseError_of_no_err _ he⟩)

/-- Settles O17: each command leaves one of a few plain updates of the state. -/
theorem commandFrame : Obligations.CommandFrame := by
  intro i s t h
  cases i with
  | nop => cases h; simp
  | init => cases h; simp
  | absorb nb d => rcases exec_absorb_result h with rfl | ⟨c, rfl⟩ | rfl <;> simp
  | finalize =>
    cases h
    rcases gated_result loadTail s with e | ⟨c, e⟩ | e <;> simp [e]
  | readH idx => cases h; simp

end Sys2Proof.Machine
end

section
/-! PROOF. The core's own event in a step: the decoded command, the engine's step, and where a response comes from and goes
(R41, R180, R186, R195, R203). -/

namespace Sys2Proof.Machine

/-- A step of a ready core, in which the host holds its levels, accepts the first offered word (R41). -/
theorem step_of_cmdReady {s : State} {w : Cmd64} {ws : List Cmd64} (hc : coreTurn s = true) (hready : cmdReady s = true)
    (ho : s.port.offers = w :: ws) : step s = accept w (withOffers ws (turned s)) := by
  obtain ⟨hstep, -⟩ := step_of_core hc
  obtain ⟨hb, hrsp, hr⟩ := (cmdReady_iff s).1 hready
  simp [hstep, coreStep, turned, hr, hb, hrsp, ho]

/-- Settles O1. -/
theorem stepExecutesDecodedCommand : Obligations.StepExecutesDecodedCommand := by
  intro s w ws i hc hready ho hw
  obtain ⟨-, hwf, -⟩ := decode_command hw
  exact ⟨hwf, by rw [step_of_cmdReady hc hready ho, accept_command hw]⟩

/-- A step of a busy core, in which the host holds its levels, is the engine's (R195, R221). -/
theorem step_of_busy {s : State} (hc : coreTurn s = true) (hr : s.port.rst = false) (hb : busy s = true) :
    step s = .next (engineStep (turned s)) := by
  obtain ⟨hstep, -⟩ := step_of_core hc
  simp [hstep, coreStep, turned, hr, hb]

/-- Settles O33. -/
theorem engineStepsCountDown : Obligations.EngineStepsCountDown := fun _ =>
  ⟨step_of_busy, remainingSteps_engineStep, fun hb => ⟨remainingSteps_of_not_busy hb, engineStep_of_not_busy hb⟩⟩

/-- Only READ_H fills the response slot, with the word of H it names (R192, R203). -/
theorem accept_RSP {w : Cmd64} {s t : State} (h : accept w s = .next t) :
    t.RSP = s.RSP ∨ ∃ idx, decode w = .command (.readH idx) ∧ t.RSP = some s.H[idx] := by
  cases accept_event h with
  | readH idx hw => exact .inr ⟨idx, hw, rfl⟩
  | _ => exact .inl rfl

/-- Settles O47: reset empties RSP, the host takes from it, READ_H fills it when it is empty, and no other event touches it. -/
theorem onlyReadHResponds : Obligations.OnlyReadHResponds := by
  intro s t h
  cases step_event h with
  | reset P hr _ _ htaken => exact ⟨nofun, .inl htaken, fun hr' => nomatch hr.symm.trans hr'⟩
  | hostTurn P _ _ _ _ htaken => exact ⟨fun _ => .inl, .inl htaken, fun _ _ => .inl⟩
  | engine =>
    obtain ⟨-, -, -, hrsp, hport, -⟩ := engineStep_frame s
    exact ⟨fun _ hv => .inl (hrsp.symm.trans hv), .inl (by simp [hport]), fun _ _ hv => .inl (hrsp.trans hv)⟩
  | take v _ _ _ _ _ hv =>
    exact ⟨nofun, .inr ⟨v, hv, rfl, rfl⟩, fun _ v' hv' => .inr (by simp [turned, Option.some.inj (hv.symm.trans hv')])⟩
  | accept w ws _ _ _ hv _ ha _ hacc =>
    refine ⟨fun v ht => .inr ?_, .inl (by rw [accept_port hacc]; rfl), fun _ _ hv' => nomatch hv.symm.trans hv'⟩
    rcases accept_RSP hacc with hsame | ⟨idx, hw, hread⟩
    · exact nomatch (hsame.trans hv).symm.trans ht
    · exact ⟨w, idx, ha, hw, Option.some.inj (ht.symm.trans hread)⟩
  | still => exact ⟨fun _ => .inl, .inl rfl, fun _ _ => .inl⟩

end Sys2Proof.Machine
end

section
/-! PROOF. The engine's append and finish steps, and how many steps a command takes (R197, R198, R201). -/

namespace Sys2Proof.Machine

/-! ### The append and the finish step -/

/-- Settles O31. -/
theorem appendStep : Obligations.AppendStep := by
  intro s b q hp hq
  rw [engineStep_append hp hq]
  refine ⟨by simp, by simp, fun hlt => ?_, fun hlast => ?_, by simp⟩
  · rw [bufAppend_of_lt b (s := { s with Q := q }) hlt]
    exact ⟨rfl, hp, rfl, rfl, rfl⟩
  · rw [bufAppend_of_last b (s := { s with Q := q }) hlast]
    exact ⟨startCompression_p _, startCompression_phase _, startCompression_work _, startCompression_compressing _⟩

theorem busy_finishStep {s : State} (hp : s.phase = .idle) (hq : s.Q = []) : busy (finishStep s) = false :=
  (busy_eq_false_iff _).2 ⟨hp, hq, rfl⟩

/-- Settles O32 (`finishStep` is the model's own name for the update). -/
theorem finishStepEndsCommand : Obligations.FinishStep := by
  intro s hp hq hf
  rw [engineStep_finish hp hq hf]
  exact ⟨rfl, busy_finishStep hp hq⟩

/-! ### Counting the engine's steps -/

/-- BUSY = 1 exactly while engine steps are still to come (R195, R201). -/
theorem busy_iff_remainingSteps_pos (s : State) : busy s = true ↔ 0 < remainingSteps s := by
  refine ⟨fun hb => ?_, fun hpos => ?_⟩
  · have hcount := remainingSteps_engineStep hb
    omega
  · by_contra hb
    rw [remainingSteps_of_not_busy (by simpa using hb)] at hpos
    omega

/-- BUSY = 1 for as many engine steps as are counted (R201). -/
theorem busy_engineRun (k : Nat) (s : State) : busy (engineRun k s) = true ↔ k < remainingSteps s := by
  induction k generalizing s with
  | zero => exact busy_iff_remainingSteps_pos s
  | succ k ih =>
    rw [engineRun_succ, ih]
    rcases Bool.eq_false_or_eq_true (busy s) with hb | hb
    · rw [← remainingSteps_engineStep hb, Nat.add_lt_add_iff_right]
    · simp [engineStep_of_not_busy hb, remainingSteps_of_not_busy hb]

theorem not_busy_engineRun (k : Nat) (s : State) : busy (engineRun k s) = false ↔ remainingSteps s ≤ k := by
  rw [← Bool.not_eq_true, busy_engineRun, not_lt]

/-- The steps of an ABSORB: its bytes, and the compression of the block they fill (R201). -/
theorem remainingSteps_loadMessage {s : State} {nb : BitVec 3} (hq : quiescent s = true) (hn : NbLegal nb) (d : Word32) :
    remainingSteps (loadMessage nb d s) =
      nb.toNat + (if 64 ≤ s.p.val + nb.toNat then compressionSteps s.impl else 0) := by
  obtain ⟨hp, -, hf, -⟩ := (quiescent_iff s).1 hq
  obtain ⟨-, hle⟩ := hn
  have hidle : phaseSteps (loadMessage nb d s) = 0 := phaseSteps_idle hp
  have hlt := s.p.isLt
  simp only [remainingSteps, hidle, loadMessage_Q, loadMessage_p, loadMessage_impl, loadMessage_FIN, absorbBytes_length, hf]
  split
  · next hfull =>
    have hblocks : (s.p.val + nb.toNat) / 64 = 1 := by omega
    simp [hblocks]
  · next hpart =>
    have hblocks : (s.p.val + nb.toNat) / 64 = 0 := by omega
    simp [hblocks]

/-- The steps of a FINALIZE: its tail, the compressions of the one or two blocks the tail ends, and the finish step (R201). -/
theorem remainingSteps_loadTail {s : State} (hp : s.phase = .idle) :
    remainingSteps (loadTail s) =
      (padTail s.p s.L).length + (if s.p.val ≤ 55 then 1 else 2) * compressionSteps s.impl + 1 := by
  have hidle : phaseSteps (loadTail s) = 0 := phaseSteps_idle hp
  obtain ⟨-, hone, htwo, -⟩ := padTailLength s.p s.L
  have hblocks : (s.p.val + (padTail s.p s.L).length) / 64 = if s.p.val ≤ 55 then 1 else 2 := by
    split <;> omega
  simp only [remainingSteps, hidle, loadTail_Q, loadTail_p, loadTail_impl, loadTail_FIN, hblocks]
  simp

/-- Settles O34: the counts, and under `serial` the 65 steps of a compression. -/
theorem commandStepCounts : Obligations.CommandStepCounts := by
  intro s t u hq he hd hu
  obtain ⟨hp, -⟩ := (quiescent_iff s).1 hq
  have hsteps : compressionSteps s.impl = 64 / u + 1 := by rw [compressionSteps, hu]
  refine ⟨fun nb d hn h => ?_, fun h => ?_⟩
  · obtain rfl : loadMessage nb d s = t := Host.Outcome.next.inj ((exec_absorb_open d hn he hd).symm.trans h)
    have hcount := remainingSteps_loadMessage hq hn d
    rw [hsteps] at hcount
    refine ⟨fun k => by rw [busy_engineRun, hcount], fun h1 => ?_⟩
    obtain ⟨-, hle⟩ := hn
    rw [not_busy_engineRun, hcount, h1]
    split <;> omega
  · obtain rfl : loadTail s = t := Host.Outcome.next.inj ((exec_finalize_open he hd).symm.trans h)
    have hcount := remainingSteps_loadTail hp
    rw [hsteps] at hcount
    have hlen := padTail_length s.p s.L
    rw [tailZeros] at hlen
    refine ⟨fun k => by rw [busy_engineRun, hcount], fun h1 h55 => ?_, fun h1 h56 => ?_, fun h1 => ?_⟩
    · rw [busy_engineRun, not_busy_engineRun, hcount, hlen, h1, h55]
      decide
    · rw [busy_engineRun, hcount, hlen, h1, h56]
      decide
    · rw [not_busy_engineRun, hcount, hlen, h1]
      split <;> omega

end Sys2Proof.Machine
end

section
/-! PROOF. A command accepted by a quiescent core, with the engine's steps after it, is the atomic form of R200. -/

namespace Sys2Proof.Machine

/-! ### What the engine leaves of a command -/

theorem acceptAtomic_illegal {w : Cmd64} {c : ErrCode} (h : decode w = .illegal c) (s : State) :
    acceptAtomic w s = raiseError c s := by
  simp only [acceptAtomic, h]

theorem acceptAtomic_command {w : Cmd64} {i : Instr} (h : decode w = .command i) (s : State) :
    acceptAtomic w s = execAtomic i s := by
  simp only [acceptAtomic, h]

/-- What the atomic form of ABSORB does after the gate (R200). -/
def absorbAtomic (nb : BitVec 3) (d : Word32) (s : State) : State :=
  (absorbBytes nb d).foldl appendAtomic { s with L := s.L + BitVec.ofNat 64 (8 * nb.toNat) }

/-- What the atomic form of FINALIZE does after the gate (R200). -/
def finalizeAtomic (s : State) : State := { (padTail s.p s.L).foldl appendAtomic s with DONE := true }

theorem execAtomic_absorb (nb : BitVec 3) (d : Word32) (s : State) :
    execAtomic (.absorb nb d) s = gated (absorbAtomic nb d) s := rfl

theorem execAtomic_finalize (s : State) : execAtomic .finalize s = gated finalizeAtomic s := rfl

/-- An append of R200 does not look at the scratch. -/
theorem appendAtomic_withoutScratch (s : State) (b : Byte) :
    appendAtomic (withoutScratch s) b = withoutScratch (appendAtomic s b) := by
  by_cases h : s.p.val = 63 <;> simp [appendAtomic, withoutScratch, h]

/-- Nor does it look at DONE. -/
theorem appendAtomic_with_done (s : State) (b : Byte) :
    appendAtomic { s with DONE := true } b = { appendAtomic s b with DONE := true } := by
  by_cases h : s.p.val = 63 <;> simp [appendAtomic, h]

theorem foldl_appendAtomic_withoutScratch (q : List Byte) (s : State) :
    q.foldl appendAtomic (withoutScratch s) = withoutScratch (q.foldl appendAtomic s) :=
  List.foldl_hom withoutScratch (init := s) (l := q) appendAtomic_withoutScratch

theorem foldl_appendAtomic_with_done (q : List Byte) (s : State) :
    q.foldl appendAtomic { s with DONE := true } = { q.foldl appendAtomic s with DONE := true } :=
  List.foldl_hom (fun s : State => { s with DONE := true }) (init := s) (l := q) appendAtomic_with_done

/-- The engine makes of an ABSORB's bytes the appends of R200. -/
theorem engineResult_loadMessage {s : State} (hq : quiescent s = true) (nb : BitVec 3) (d : Word32) :
    engineResult (loadMessage nb d s) = withoutScratch (absorbAtomic nb d s) := by
  obtain ⟨hp, hQ, hf, -⟩ := (quiescent_iff s).1 hq
  have hclosed : blockClosed (loadMessage nb d s) =
      withoutScratch { s with L := s.L + BitVec.ofNat 64 (8 * nb.toNat) } := by
    simp [blockClosed, withoutScratch, hp, hQ, hf]
  rw [engineResult, loadMessage_Q, hclosed, foldl_appendAtomic_withoutScratch, absorbAtomic]

/-- The engine makes of a FINALIZE's tail the appends of R200, and DONE = 1. -/
theorem engineResult_loadTail {s : State} (hq : quiescent s = true) :
    engineResult (loadTail s) = withoutScratch (finalizeAtomic s) := by
  obtain ⟨hp, hQ, hf, -⟩ := (quiescent_iff s).1 hq
  have hclosed : blockClosed (loadTail s) = withoutScratch { s with DONE := true } := by
    simp [blockClosed, withoutScratch, hp, hQ, hf]
  rw [engineResult, loadTail_Q, hclosed, foldl_appendAtomic_withoutScratch, foldl_appendAtomic_with_done, finalizeAtomic]

theorem busy_raiseError (c : ErrCode) (s : State) : busy (raiseError c s) = busy s := by
  rw [raiseError_eq]
  rfl

/-- A command that the gate refuses leaves the engine nothing to do; one that passes, what `f` says. -/
theorem engineResult_gated {f g : State → State} {s : State} (hb : busy s = false)
    (hfg : engineResult (f s) = withoutScratch (g s)) : engineResult (gated f s) = withoutScratch (gated g s) := by
  unfold gated
  split
  · exact engineResult_of_not_busy hb
  · split
    · exact engineResult_of_not_busy ((busy_raiseError _ s).trans hb)
    · exact hfg

/-- Whatever word a quiescent core accepts, the engine makes of it the atomic form (R200). -/
theorem engineResult_accept {w : Cmd64} {s t : State} (hq : quiescent s = true) (h : accept w s = .next t) :
    engineResult t = withoutScratch (acceptAtomic w s) := by
  obtain ⟨hp, hQ, hf, -⟩ := (quiescent_iff s).1 hq
  have hb : busy s = false := (busy_eq_false_iff s).2 ⟨hp, hQ, hf⟩
  cases hw : decode w with
  | illegal c =>
    rw [accept_illegal hw] at h; cases h
    rw [acceptAtomic_illegal hw]
    exact engineResult_of_not_busy ((busy_raiseError c s).trans hb)
  | command i =>
    rw [accept_command hw] at h
    rw [acceptAtomic_command hw]
    cases i with
    | nop => cases h; exact engineResult_of_not_busy hb
    | init => cases h; exact engineResult_of_not_busy (s := startMessage s) hb
    | absorb nb d =>
      obtain ⟨-, hwf, -⟩ := decode_command hw
      rw [exec_absorb_legal d s (of_decide_eq_true hwf)] at h; cases h
      rw [execAtomic_absorb]
      exact engineResult_gated hb (engineResult_loadMessage hq nb d)
    | finalize =>
      cases h
      rw [execAtomic_finalize]
      exact engineResult_gated hb (engineResult_loadTail hq)
    | readH idx => cases h; exact engineResult_of_not_busy (s := respond s.H[idx] s) hb

/-! ### What reads the same until the engine is done -/

/-- What every engine step leaves unchanged, any number of them leaves unchanged. -/
theorem engineRun_keeps {α : Type} {g : State → α} (hg : ∀ s, g (engineStep s) = g s) (n : Nat) (s : State) :
    g (engineRun n s) = g s := by
  induction n generalizing s with
  | zero => rfl
  | succ n ih => rw [engineRun_succ, ih, hg]

theorem engineStep_ERRCODE (s : State) : (engineStep s).ERRCODE = s.ERRCODE :=
  let ⟨_, _, hC, _⟩ := engineStep_frame s
  hC

/-- The finish step is the last: an engine step that leaves BUSY = 1 does not write DONE (R37, R198). -/
theorem engineStep_DONE_of_busy {s : State} (hb : busy (engineStep s) = true) : (engineStep s).DONE = s.DONE := by
  by_cases h : s.phase ≠ .idle ∨ s.Q ≠ [] ∨ s.FIN = false
  · exact (engineStep_FIN_DONE h).2
  · simp only [not_or, ne_eq, not_not, Bool.not_eq_false] at h
    obtain ⟨hp, hq, hf⟩ := h
    rw [engineStep_finish hp hq hf, busy_finishStep hp hq] at hb
    cases hb

theorem engineRun_DONE {k : Nat} {s : State} (h : k < remainingSteps s) : (engineRun k s).DONE = s.DONE := by
  induction k generalizing s with
  | zero => rfl
  | succ k ih =>
    have hcount := remainingSteps_engineStep ((busy_iff_remainingSteps_pos s).2 (by omega))
    have hb : busy (engineStep s) = true := (busy_iff_remainingSteps_pos _).2 (by omega)
    rw [engineRun_succ, ih (by omega), engineStep_DONE_of_busy hb]

/-- A word that sets an idle core to work has passed the gate, and has recorded no error (R180, R37). -/
theorem accept_of_busy {w : Cmd64} {s t : State} (h : accept w s = .next t) (hb : busy s = false) (hb' : busy t = true) :
    t.DONE = false ∧ t.ERR = s.ERR ∧ t.ERRCODE = s.ERRCODE := by
  cases accept_event h with
  | absorb nb d _ _ _ hd => exact ⟨hd, rfl, rfl⟩
  | finalize _ _ hd => exact ⟨hd, rfl, rfl⟩
  | _ => exact nomatch hb'.symm.trans hb

/-- Settles O55: what the engine leaves is `engineResult`, and while it has steps left the word has passed the gate. -/
theorem atomicFormIsReached : Obligations.AtomicFormIsReached := by
  intro s w hq
  obtain ⟨hp, hQ, hf, -⟩ := (quiescent_iff s).1 hq
  have hb : busy s = false := (busy_eq_false_iff s).2 ⟨hp, hQ, hf⟩
  obtain ⟨t, h⟩ := accept_next w s
  have ht : t.phase = .idle := (accept_phase h).trans hp
  refine ⟨t, h, busy_drained t, (withoutScratch_drained (inStep_of_idle ht)).trans (engineResult_accept hq h),
    fun k hk => ?_⟩
  have hb' : busy t = true := (busy_iff_remainingSteps_pos t).2 (by omega)
  obtain ⟨hdone, herr, hcode⟩ := accept_of_busy h hb hb'
  exact ⟨(busy_engineRun k t).2 hk, (engineRun_DONE hk).trans hdone, (engineRun_keeps engineStep_ERR k t).trans herr,
    (engineRun_keeps engineStep_ERRCODE k t).trans hcode⟩

end Sys2Proof.Machine
end

section
/-! PROOF. Every step answers a next state, and what an error does to the core: what raising one leaves unchanged, and what
stands until INIT or reset (R204, R213 to R217). -/

namespace Sys2Proof.Machine

/-! ### The step is total -/

theorem coreStep_next (s : State) : ∃ t, coreStep s = .next t := by
  rcases Bool.eq_false_or_eq_true s.port.rst with hr | hr
  · exact ⟨resetCore s, by simp [coreStep, hr]⟩
  · rcases coreStep_cases s hr with ⟨-, e⟩ | ⟨v, -, -, -, e⟩ | ⟨w, ws, -, -, -, e⟩ | ⟨-, -, e⟩
    · exact ⟨_, e⟩
    · exact ⟨_, e⟩
    · rw [e]
      exact accept_next w _
    · exact ⟨_, e⟩

theorem hostStep_next (turn : HostTurn) (s : State) : ∃ t, hostStep turn s = .next t := by
  cases turn with
  | core => exact coreStep_next s
  | readStatus | driveRst | driveRspReady | offer => exact ⟨_, rfl⟩

/-- No state faults and none is refused (R213, R217). -/
theorem step_next (s : State) : ∃ t, step s = .next t := by
  unfold step
  split
  · exact coreStep_next s
  · exact hostStep_next _ _

theorem accept_impl {w : Cmd64} {s t : State} (h : accept w s = .next t) : t.impl = s.impl := by
  cases accept_event h <;> rfl

/-- The open parameters are fixed, and what the host has observed is not forgotten (R9, R204). -/
theorem step_keeps_record {s t : State} (h : step s = .next t) :
    t.impl = s.impl ∧ s.port.taken <+: t.port.taken ∧ s.port.reads <+: t.port.reads := by
  cases step_event h with
  | reset P _ _ _ htaken hreads => exact ⟨rfl, by simp [htaken], hreads⟩
  | hostTurn P _ _ _ _ htaken hreads => exact ⟨rfl, by simp [htaken], hreads⟩
  | engine =>
    obtain ⟨-, -, -, -, hport, himpl⟩ := engineStep_frame s
    exact ⟨himpl, by simp [hport], by simp [hport]⟩
  | take v => exact ⟨rfl, List.prefix_append _ _, List.prefix_rfl⟩
  | accept w ws _ _ _ _ _ _ _ hacc =>
    have himpl := accept_impl hacc
    have hport := accept_port hacc
    exact ⟨himpl, by simp [hport, turned], by simp [hport, turned]⟩
  | still => exact ⟨rfl, List.prefix_rfl, List.prefix_rfl⟩

/-- Settles O3. -/
theorem stepAlwaysAnswersNext : Obligations.StepAlwaysAnswersNext := by
  intro s
  obtain ⟨t, h⟩ := step_next s
  exact ⟨t, h, step_keeps_record h⟩

/-! ### Raising an error -/

/-- FINALIZE or a legal ABSORB after DONE raises SEQUENCE (R212). -/
theorem accept_gated_of_done {w : Cmd64} {i : Instr} {s : State} (hw : decode w = .command i)
    (hi : i = .finalize ∨ ∃ nb d, i = .absorb nb d) (he : s.ERR = false) (hd : s.DONE = true) :
    accept w s = .next (raiseError .sequence s) := by
  rw [accept_command hw, raiseError_of_no_err _ he]
  rcases hi with rfl | ⟨nb, d, rfl⟩
  · rw [exec_finalize, gated_of_done _ he hd]
  · obtain ⟨-, hwf, -⟩ := decode_command hw
    have hn : NbLegal nb := of_decide_eq_true hwf
    rw [exec_absorb_legal d s hn, gated_of_done _ he hd]

/-- Settles O2: whichever the code, the accepted word's one effect is `raiseError`, which writes ERR and ERRCODE alone. -/
theorem raisedErrorRecordsFirstCode : Obligations.RaisedErrorRecordsFirstCode := by
  intro s w ws c hc hready ho hcode
  have hacc : accept w (withOffers ws (turned s)) = .next (raiseError c (withOffers ws (turned s))) := by
    rcases hcode with hill | ⟨rfl, he, hd, i, hw, hi⟩
    · exact accept_illegal hill _
    · exact accept_gated_of_done hw hi he hd
  refine ⟨_, (step_of_cmdReady hc hready ho).trans hacc, ?_⟩
  rw [raiseError_eq]
  and_intros <;> rfl

/-! ### A recorded error -/

/-- While ERR = 1 a word other than INIT can at most put a response in RSP (R180, R215). -/
theorem accept_of_err {w : Cmd64} {s t : State} (h : accept w s = .next t) (he : s.ERR = true)
    (hw : decode w ≠ .command .init) : ∃ r, t = { s with RSP := r } := by
  cases accept_event h with
  | ignored => exact ⟨s.RSP, rfl⟩
  | init hi => exact absurd hi hw
  | readH idx => exact ⟨some s.H[idx], rfl⟩
  | error _ _ he' | absorb _ _ _ _ he' | finalize _ he' => exact nomatch he.symm.trans he'

/-- In an idle core with ERR = 1, a step without reset and INIT writes nothing but RSP and the ports (R215). -/
theorem step_of_err {s t : State} (h : step s = .next t) (hb : busy s = false) (he : s.ERR = true)
    (hr : resetting s = false) (hw : ∀ w, accepted s = some w → decode w ≠ .command .init) :
    ∃ r P, t = { s with RSP := r, port := P } := by
  cases step_event h with
  | reset P hr' => exact nomatch hr.symm.trans hr'
  | hostTurn P => exact ⟨s.RSP, P, rfl⟩
  | engine _ _ _ hb' => exact nomatch hb.symm.trans hb'
  | take v => exact ⟨none, _, rfl⟩
  | accept w ws _ _ _ _ _ ha _ hacc =>
    obtain ⟨r, rfl⟩ := accept_of_err hacc he (hw w ha)
    exact ⟨r, _, rfl⟩
  | still => exact ⟨s.RSP, _, rfl⟩

/-- Settles O50: ERR = 1 means the engine is idle, so no message byte is left for it to move. -/
theorem errorIsSticky : Obligations.ErrorIsSticky := by
  intro s t hinv he h hr hw
  obtain ⟨r, P, rfl⟩ := step_of_err h (hinv.errQuiet he) he hr hw
  exact ⟨he, rfl, rfl, rfl, rfl, rfl, rfl, rfl, rfl, rfl⟩

end Sys2Proof.Machine
end

section
/-! PROOF. Steps in which the ports hold the core still: with a response the host does not take or with nothing to do (R228, R253),
and in reset and after it (R240 to R245). -/

namespace Sys2Proof.Machine

/-! ### Nothing to do -/

theorem turned_of_no_plan {s : State} (hp : s.port.plan = []) : turned s = s := by
  rw [turned, hp, List.tail_nil, ← hp]
  rfl

theorem coreTurn_of_no_plan {s : State} (hp : s.port.plan = []) : coreTurn s = true := by
  simp [coreTurn, hp]

/-- A step without reset leaves in RSP a response the host is not ready for, gives the host none, and with nothing planned and
BUSY = 0 changes nothing (R42, R253). -/
theorem step_of_stalled {s t : State} {v : Word32} (h : step s = .next t) (hv : s.RSP = some v)
    (hy : s.port.rspReady = false) (hr : resetting s = false) :
    t.RSP = some v ∧ t.port.taken = s.port.taken ∧ (s.port.plan = [] → busy s = false → t = s) := by
  cases step_event h with
  | reset P hr' => exact nomatch hr.symm.trans hr'
  | hostTurn P _ _ hc _ htaken => exact ⟨hv, htaken, fun hp => nomatch hc.symm.trans (coreTurn_of_no_plan hp)⟩
  | engine _ _ _ hb =>
    obtain ⟨-, -, -, hrsp, hport, -⟩ := engineStep_frame s
    exact ⟨hrsp.trans hv, by simp [hport], fun _ hb' => nomatch hb.symm.trans hb'⟩
  | take _ _ _ _ _ hy' => exact nomatch hy.symm.trans hy'
  | accept _ _ _ _ _ hv' => exact nomatch hv.symm.trans hv'
  | still => exact ⟨hv, rfl, fun hp _ => turned_of_no_plan hp⟩

/-- A quiescent core with nothing offered takes the host's turn and does nothing else (R228). -/
theorem step_of_idle {s : State} (hq : quiescent s = true) (hr : s.port.rst = false) (ho : s.port.offers = [])
    (hc : coreTurn s = true) : step s = .next (turned s) := by
  obtain ⟨hstep, -⟩ := step_of_core hc
  obtain ⟨hb, hrsp⟩ : busy s = false ∧ s.RSP = none := by simpa [quiescent] using hq
  simp [hstep, coreStep, turned, hr, hb, hrsp, ho]

/-- Settles O46. -/
theorem untakenResponseStalls : Obligations.UntakenResponseStalls := by
  refine ⟨fun s t v hv hy hr h => ?_, fun s hq hr ho hc => ?_⟩
  · obtain ⟨hrsp, htaken, hsame⟩ := step_of_stalled h hv hy hr
    exact ⟨hrsp, accepted_of_response hv, htaken, hsame⟩
  · have hstep := step_of_idle hq hr ho hc
    exact ⟨hstep, fun hp => hstep.trans (by rw [turned_of_no_plan hp])⟩

/-! ### A step in reset -/

/-- Whatever turn the host takes, a step in which `rst` is asserted resets the core, accepts no command and gives the host no
response (R240 to R242). -/
theorem step_of_resetting {s t : State} (h : step s = .next t) (hr : resetting s = true) :
    Fresh t ∧ accepted s = none ∧ t.port.rst = true ∧ t.port.taken = s.port.taken := by
  cases step_event h with
  | reset P _ ha hrst htaken => exact ⟨fresh_resetCore _, ha, hrst, htaken⟩
  | hostTurn _ hr' | engine hr' | take _ hr' | accept _ _ hr' | still hr' => exact nomatch hr.symm.trans hr'

/-- Settles O37. -/
theorem resetStepFromAnyState : Obligations.ResetStepFromAnyState := by
  intro s hr
  obtain ⟨t, h⟩ := step_next s
  obtain ⟨hf, -, -, htaken⟩ := step_of_resetting h hr
  exact ⟨t, h, fun _ => by rw [hf.H], hf.L, hf.p, hf.Q, hf.FIN, hf.phase, hf.DONE, hf.ERR, hf.ERRCODE, hf.RSP, htaken⟩

/-! ### The release -/

theorem fresh_withPort {s : State} (P : Port) (h : Fresh s) : Fresh (withPort P s) :=
  ⟨h.H, h.L, h.p, h.Q, h.FIN, h.phase, h.DONE, h.ERR, h.ERRCODE, h.RSP⟩

theorem Fresh.busy_eq {s : State} (h : Fresh s) : busy s = false :=
  (busy_eq_false_iff s).2 ⟨h.phase, h.Q, h.FIN⟩

/-- A fresh core has no flag and no code to show (R36). -/
theorem Fresh.statusWord_eq {s : State} (h : Fresh s) : statusWord s = 0 := by
  have hbits : statusBits s = 0 := by
    rw [statusBits, h.ERRCODE, h.ERR, h.DONE, h.busy_eq]
    decide
  rw [statusWord, hbits, ite_self]

/-- The turn that releases `rst` changes the ports alone (R242). -/
theorem step_of_release {s : State} {rest : List HostTurn} (hp : s.port.plan = .driveRst false :: rest) :
    step s = .next (withPort { s.port with rst := false, plan := rest } s) := by
  rw [step, hp]
  rfl

/-- Settles O38. -/
theorem whileResetIsAsserted : Obligations.WhileResetIsAsserted := by
  refine ⟨fun s hr => ⟨by simp [cmdReady, hr], by simp [rspValid, hr], statusWord_of_rst hr⟩, fun s t hr h => ?_,
    fun s t r rest hr h hp h' => ?_⟩
  · obtain ⟨-, ha, hrst, -⟩ := step_of_resetting h hr
    exact ⟨ha, hrst⟩
  · obtain ⟨hf, -⟩ := step_of_resetting h hr
    cases (step_of_release hp).symm.trans h'
    have hfresh := fresh_withPort { t.port with rst := false, plan := rest } hf
    exact ⟨(cmdReady_iff _).2 ⟨hfresh.busy_eq, hfresh.RSP, rfl⟩, hfresh, hfresh.statusWord_eq⟩

/-! ### Reset and INIT -/

/-- Two fresh cores with the same ports and parameters differ in unspecified contents alone (R131, R245). -/
theorem sameObservable_of_fresh {s t : State} (hs : Fresh s) (ht : Fresh t) (hport : s.port = t.port)
    (himpl : s.impl = t.impl) : SameObservable s t where
  H := hs.H.trans ht.H.symm
  L := hs.L.trans ht.L.symm
  p := hs.p.trans ht.p.symm
  Q := hs.Q.trans ht.Q.symm
  FIN := hs.FIN.trans ht.FIN.symm
  phase := hs.phase.trans ht.phase.symm
  DONE := hs.DONE.trans ht.DONE.symm
  ERR := hs.ERR.trans ht.ERR.symm
  ERRCODE := hs.ERRCODE.trans ht.ERRCODE.symm
  RSP := hs.RSP.trans ht.RSP.symm
  port := hport
  impl := himpl
  M := fun _ hj => by
    rw [hs.p] at hj
    exact absurd hj (Nat.not_lt_zero _)
  work := fun hp => absurd hs.phase hp
  W := fun hp => absurd hs.phase hp
  Wbuf := fun hp => absurd hs.phase hp

/-- Settles O41: both leave a fresh core and neither acts on the ports or the parameters. -/
theorem resetAndInitLookAlike : Obligations.ResetAndInitLookAlike := by
  intro s t hq h
  cases (exec_init s).symm.trans h
  exact sameObservable_of_fresh (fresh_resetCore s) (fresh_startMessage hq) rfl rfl

end Sys2Proof.Machine
end
